-- ==== Sys2Proof/Word.lean ====
section
/-! DEFINITION. The word types of the NES mapper address translator (spec/00_scope.md R6, R11).
All values are unsigned; bit 0 is the least significant bit. -/

namespace Sys2Proof

/-- One 8-bit datum, the only access width of the block (R6, R68). -/
abbrev Byte := BitVec 8

/-- A 16-bit CPU-side or PPU-side address (R6). -/
abbrev Addr := BitVec 16

/-- A transaction word `T`: `op` in bits 26:24, `A` in bits 23:8, `D` in bits 7:0 (R90). -/
abbrev TWord := BitVec 27

/-- A 12-bit physical offset into the host's nametable VRAM (R120). -/
abbrev VramOffset := BitVec 12

end Sys2Proof
end

