-- ==== Sys2Proof/Syntax.lean ====
section
/-! DEFINITION. The transactions of the block as syntax: one constructor per operation of
spec/opcode_table.json. Rows that share a mnemonic and a rule are one operation whose address set one mask
cannot express (R95), so they share a constructor (log entry 9). -/

namespace Sys2Proof

/-- The five variants of the block, fixed when it is constructed (R2). -/
inductive Variant
  | nrom | mmc1 | uxrom | cnrom | mmc3
  deriving DecidableEq, Repr

/-- The five mirroring modes (R22). -/
inductive Mirroring
  | horizontal | vertical | singleScreenLower | singleScreenUpper | fourScreen
  deriving DecidableEq, Repr

/-- The transactions. `a` is the address `A` and `d` the datum `D` of the word (R90); an operand the format
ignores (R92) is not carried: `D` of a read, `A` and `D` of a signal, `A[15:12]` and `D` of NT_MAP. -/
inductive Instr
  /-- `ALL.CPU_UNMAPPED_READ` (R61), format F-CPU. -/
  | allCpuUnmappedRead (a : Addr)
  /-- `ALL.CPU_UNMAPPED_WRITE` (R61), format F-CPU. -/
  | allCpuUnmappedWrite (a : Addr) (d : Byte)
  /-- `ALL.PPU_UNMAPPED_READ` (R61), format F-PPU. -/
  | allPpuUnmappedRead (a : Addr)
  /-- `ALL.PPU_UNMAPPED_WRITE` (R61), format F-PPU. -/
  | allPpuUnmappedWrite (a : Addr) (d : Byte)
  /-- `ALL.NT_MAP` (R121), format F-NT. -/
  | allNtMap (a : BitVec 12)
  /-- `ALL.RESERVED` (R98), format F-SIG. -/
  | allReserved
  /-- `NROM.PRG_RAM_READ` (R161), format F-CPU. -/
  | nromPrgRamRead (a : Addr)
  /-- `NROM.PRG_RAM_WRITE` (R162), format F-CPU. -/
  | nromPrgRamWrite (a : Addr) (d : Byte)
  /-- `NROM.PRG_ROM_READ` (R163), format F-CPU. -/
  | nromPrgRomRead (a : Addr)
  /-- `NROM.PRG_ROM_WRITE` (R164), format F-CPU. -/
  | nromPrgRomWrite (a : Addr) (d : Byte)
  /-- `NROM.CHR_READ` (R165), format F-PPU. -/
  | nromChrRead (a : Addr)
  /-- `NROM.CHR_WRITE` (R166), format F-PPU. -/
  | nromChrWrite (a : Addr) (d : Byte)
  /-- `NROM.A12_RISE` (R168), format F-SIG. -/
  | nromA12Rise
  /-- `NROM.IRQ_ACK` (R169), format F-SIG. -/
  | nromIrqAck
  /-- `MMC1.PRG_RAM_READ` (R180), format F-CPU. -/
  | mmc1PrgRamRead (a : Addr)
  /-- `MMC1.PRG_RAM_WRITE` (R181), format F-CPU. -/
  | mmc1PrgRamWrite (a : Addr) (d : Byte)
  /-- `MMC1.PRG_ROM_READ` (R182), format F-CPU. -/
  | mmc1PrgRomRead (a : Addr)
  /-- `MMC1.RESET` (R172), format F-CPU. -/
  | mmc1Reset (a : Addr) (d : Byte)
  /-- `MMC1.SERIAL_CONTROL` (R174), format F-CPU. -/
  | mmc1SerialControl (a : Addr) (d : Byte)
  /-- `MMC1.SERIAL_CHR0` (R175), format F-CPU. -/
  | mmc1SerialChr0 (a : Addr) (d : Byte)
  /-- `MMC1.SERIAL_CHR1` (R176), format F-CPU. -/
  | mmc1SerialChr1 (a : Addr) (d : Byte)
  /-- `MMC1.SERIAL_PRG` (R177), format F-CPU. -/
  | mmc1SerialPrg (a : Addr) (d : Byte)
  /-- `MMC1.CHR_READ` (R183), format F-PPU. -/
  | mmc1ChrRead (a : Addr)
  /-- `MMC1.CHR_WRITE` (R184), format F-PPU. -/
  | mmc1ChrWrite (a : Addr) (d : Byte)
  /-- `MMC1.A12_RISE` (R186), format F-SIG. -/
  | mmc1A12Rise
  /-- `MMC1.IRQ_ACK` (R187), format F-SIG. -/
  | mmc1IrqAck
  /-- `UXROM.WRAM_READ` (R204), format F-CPU. -/
  | uxromWramRead (a : Addr)
  /-- `UXROM.WRAM_WRITE` (R208), format F-CPU. -/
  | uxromWramWrite (a : Addr) (d : Byte)
  /-- `UXROM.PRG_ROM_READ` (R200), format F-CPU. -/
  | uxromPrgRomRead (a : Addr)
  /-- `UXROM.BANK_SELECT` (R201), format F-CPU. -/
  | uxromBankSelect (a : Addr) (d : Byte)
  /-- `UXROM.CHR_READ` (R202), format F-PPU. -/
  | uxromChrRead (a : Addr)
  /-- `UXROM.CHR_WRITE` (R203), format F-PPU. -/
  | uxromChrWrite (a : Addr) (d : Byte)
  /-- `UXROM.A12_RISE` (R206), format F-SIG. -/
  | uxromA12Rise
  /-- `UXROM.IRQ_ACK` (R207), format F-SIG. -/
  | uxromIrqAck
  /-- `CNROM.WRAM_READ` (R214), format F-CPU. -/
  | cnromWramRead (a : Addr)
  /-- `CNROM.WRAM_WRITE` (R218), format F-CPU. -/
  | cnromWramWrite (a : Addr) (d : Byte)
  /-- `CNROM.PRG_ROM_READ` (R210), format F-CPU. -/
  | cnromPrgRomRead (a : Addr)
  /-- `CNROM.CHR_BANK_SELECT` (R211), format F-CPU. -/
  | cnromChrBankSelect (a : Addr) (d : Byte)
  /-- `CNROM.CHR_READ` (R212), format F-PPU. -/
  | cnromChrRead (a : Addr)
  /-- `CNROM.CHR_WRITE` (R213), format F-PPU. -/
  | cnromChrWrite (a : Addr) (d : Byte)
  /-- `CNROM.A12_RISE` (R216), format F-SIG. -/
  | cnromA12Rise
  /-- `CNROM.IRQ_ACK` (R217), format F-SIG. -/
  | cnromIrqAck
  /-- `MMC3.PRG_RAM_READ` (R240), format F-CPU. -/
  | mmc3PrgRamRead (a : Addr)
  /-- `MMC3.PRG_RAM_WRITE` (R241), format F-CPU. -/
  | mmc3PrgRamWrite (a : Addr) (d : Byte)
  /-- `MMC3.PRG_ROM_READ` (R242), format F-CPU. -/
  | mmc3PrgRomRead (a : Addr)
  /-- `MMC3.BANK_SELECT` (R222), format F-CPU. -/
  | mmc3BankSelect (a : Addr) (d : Byte)
  /-- `MMC3.BANK_DATA` (R223), format F-CPU. -/
  | mmc3BankData (a : Addr) (d : Byte)
  /-- `MMC3.MIRRORING` (R224), format F-CPU. -/
  | mmc3Mirroring (a : Addr) (d : Byte)
  /-- `MMC3.PRG_RAM_PROTECT` (R225), format F-CPU. -/
  | mmc3PrgRamProtect (a : Addr) (d : Byte)
  /-- `MMC3.IRQ_LATCH` (R226), format F-CPU. -/
  | mmc3IrqLatch (a : Addr) (d : Byte)
  /-- `MMC3.IRQ_RELOAD` (R227), format F-CPU. -/
  | mmc3IrqReload (a : Addr) (d : Byte)
  /-- `MMC3.IRQ_DISABLE` (R228), format F-CPU. -/
  | mmc3IrqDisable (a : Addr) (d : Byte)
  /-- `MMC3.IRQ_ENABLE` (R229), format F-CPU. -/
  | mmc3IrqEnable (a : Addr) (d : Byte)
  /-- `MMC3.CHR_READ` (R243), format F-PPU. -/
  | mmc3ChrRead (a : Addr)
  /-- `MMC3.CHR_WRITE` (R244), format F-PPU. -/
  | mmc3ChrWrite (a : Addr) (d : Byte)
  /-- `MMC3.A12_RISE` (R232), format F-SIG. -/
  | mmc3A12Rise
  /-- `MMC3.IRQ_ACK` (R235), format F-SIG. -/
  | mmc3IrqAck
  deriving DecidableEq, Repr

/-- The row's mnemonic in spec/opcode_table.json. -/
def Instr.mnemonic : Instr → String
  | .allCpuUnmappedRead _ => "ALL.CPU_UNMAPPED_READ"
  | .allCpuUnmappedWrite _ _ => "ALL.CPU_UNMAPPED_WRITE"
  | .allPpuUnmappedRead _ => "ALL.PPU_UNMAPPED_READ"
  | .allPpuUnmappedWrite _ _ => "ALL.PPU_UNMAPPED_WRITE"
  | .allNtMap _ => "ALL.NT_MAP"
  | .allReserved => "ALL.RESERVED"
  | .nromPrgRamRead _ => "NROM.PRG_RAM_READ"
  | .nromPrgRamWrite _ _ => "NROM.PRG_RAM_WRITE"
  | .nromPrgRomRead _ => "NROM.PRG_ROM_READ"
  | .nromPrgRomWrite _ _ => "NROM.PRG_ROM_WRITE"
  | .nromChrRead _ => "NROM.CHR_READ"
  | .nromChrWrite _ _ => "NROM.CHR_WRITE"
  | .nromA12Rise => "NROM.A12_RISE"
  | .nromIrqAck => "NROM.IRQ_ACK"
  | .mmc1PrgRamRead _ => "MMC1.PRG_RAM_READ"
  | .mmc1PrgRamWrite _ _ => "MMC1.PRG_RAM_WRITE"
  | .mmc1PrgRomRead _ => "MMC1.PRG_ROM_READ"
  | .mmc1Reset _ _ => "MMC1.RESET"
  | .mmc1SerialControl _ _ => "MMC1.SERIAL_CONTROL"
  | .mmc1SerialChr0 _ _ => "MMC1.SERIAL_CHR0"
  | .mmc1SerialChr1 _ _ => "MMC1.SERIAL_CHR1"
  | .mmc1SerialPrg _ _ => "MMC1.SERIAL_PRG"
  | .mmc1ChrRead _ => "MMC1.CHR_READ"
  | .mmc1ChrWrite _ _ => "MMC1.CHR_WRITE"
  | .mmc1A12Rise => "MMC1.A12_RISE"
  | .mmc1IrqAck => "MMC1.IRQ_ACK"
  | .uxromWramRead _ => "UXROM.WRAM_READ"
  | .uxromWramWrite _ _ => "UXROM.WRAM_WRITE"
  | .uxromPrgRomRead _ => "UXROM.PRG_ROM_READ"
  | .uxromBankSelect _ _ => "UXROM.BANK_SELECT"
  | .uxromChrRead _ => "UXROM.CHR_READ"
  | .uxromChrWrite _ _ => "UXROM.CHR_WRITE"
  | .uxromA12Rise => "UXROM.A12_RISE"
  | .uxromIrqAck => "UXROM.IRQ_ACK"
  | .cnromWramRead _ => "CNROM.WRAM_READ"
  | .cnromWramWrite _ _ => "CNROM.WRAM_WRITE"
  | .cnromPrgRomRead _ => "CNROM.PRG_ROM_READ"
  | .cnromChrBankSelect _ _ => "CNROM.CHR_BANK_SELECT"
  | .cnromChrRead _ => "CNROM.CHR_READ"
  | .cnromChrWrite _ _ => "CNROM.CHR_WRITE"
  | .cnromA12Rise => "CNROM.A12_RISE"
  | .cnromIrqAck => "CNROM.IRQ_ACK"
  | .mmc3PrgRamRead _ => "MMC3.PRG_RAM_READ"
  | .mmc3PrgRamWrite _ _ => "MMC3.PRG_RAM_WRITE"
  | .mmc3PrgRomRead _ => "MMC3.PRG_ROM_READ"
  | .mmc3BankSelect _ _ => "MMC3.BANK_SELECT"
  | .mmc3BankData _ _ => "MMC3.BANK_DATA"
  | .mmc3Mirroring _ _ => "MMC3.MIRRORING"
  | .mmc3PrgRamProtect _ _ => "MMC3.PRG_RAM_PROTECT"
  | .mmc3IrqLatch _ _ => "MMC3.IRQ_LATCH"
  | .mmc3IrqReload _ _ => "MMC3.IRQ_RELOAD"
  | .mmc3IrqDisable _ _ => "MMC3.IRQ_DISABLE"
  | .mmc3IrqEnable _ _ => "MMC3.IRQ_ENABLE"
  | .mmc3ChrRead _ => "MMC3.CHR_READ"
  | .mmc3ChrWrite _ _ => "MMC3.CHR_WRITE"
  | .mmc3A12Rise => "MMC3.A12_RISE"
  | .mmc3IrqAck => "MMC3.IRQ_ACK"

/-- The variant whose decoder knows the operation; none for the `ALL.` operations, which every variant has (R95). -/
def Instr.variant? : Instr → Option Variant
  | .allCpuUnmappedRead _ => none
  | .allCpuUnmappedWrite _ _ => none
  | .allPpuUnmappedRead _ => none
  | .allPpuUnmappedWrite _ _ => none
  | .allNtMap _ => none
  | .allReserved => none
  | .nromPrgRamRead _ => some .nrom
  | .nromPrgRamWrite _ _ => some .nrom
  | .nromPrgRomRead _ => some .nrom
  | .nromPrgRomWrite _ _ => some .nrom
  | .nromChrRead _ => some .nrom
  | .nromChrWrite _ _ => some .nrom
  | .nromA12Rise => some .nrom
  | .nromIrqAck => some .nrom
  | .mmc1PrgRamRead _ => some .mmc1
  | .mmc1PrgRamWrite _ _ => some .mmc1
  | .mmc1PrgRomRead _ => some .mmc1
  | .mmc1Reset _ _ => some .mmc1
  | .mmc1SerialControl _ _ => some .mmc1
  | .mmc1SerialChr0 _ _ => some .mmc1
  | .mmc1SerialChr1 _ _ => some .mmc1
  | .mmc1SerialPrg _ _ => some .mmc1
  | .mmc1ChrRead _ => some .mmc1
  | .mmc1ChrWrite _ _ => some .mmc1
  | .mmc1A12Rise => some .mmc1
  | .mmc1IrqAck => some .mmc1
  | .uxromWramRead _ => some .uxrom
  | .uxromWramWrite _ _ => some .uxrom
  | .uxromPrgRomRead _ => some .uxrom
  | .uxromBankSelect _ _ => some .uxrom
  | .uxromChrRead _ => some .uxrom
  | .uxromChrWrite _ _ => some .uxrom
  | .uxromA12Rise => some .uxrom
  | .uxromIrqAck => some .uxrom
  | .cnromWramRead _ => some .cnrom
  | .cnromWramWrite _ _ => some .cnrom
  | .cnromPrgRomRead _ => some .cnrom
  | .cnromChrBankSelect _ _ => some .cnrom
  | .cnromChrRead _ => some .cnrom
  | .cnromChrWrite _ _ => some .cnrom
  | .cnromA12Rise => some .cnrom
  | .cnromIrqAck => some .cnrom
  | .mmc3PrgRamRead _ => some .mmc3
  | .mmc3PrgRamWrite _ _ => some .mmc3
  | .mmc3PrgRomRead _ => some .mmc3
  | .mmc3BankSelect _ _ => some .mmc3
  | .mmc3BankData _ _ => some .mmc3
  | .mmc3Mirroring _ _ => some .mmc3
  | .mmc3PrgRamProtect _ _ => some .mmc3
  | .mmc3IrqLatch _ _ => some .mmc3
  | .mmc3IrqReload _ _ => some .mmc3
  | .mmc3IrqDisable _ _ => some .mmc3
  | .mmc3IrqEnable _ _ => some .mmc3
  | .mmc3ChrRead _ => some .mmc3
  | .mmc3ChrWrite _ _ => some .mmc3
  | .mmc3A12Rise => some .mmc3
  | .mmc3IrqAck => some .mmc3

/-- A block of variant `v` has the operation (R95). -/
def Instr.inVariant (i : Instr) (v : Variant) : Bool :=
  match i.variant? with
  | none => true
  | some u => u == v

end Sys2Proof
end

