-- ==== Sys2Proof/WellFormed.lean ====
section
/-! DEFINITION. When a transaction is one the encoding can spell: its address lies in the operation's window,
and the bits that select the operation (`A[0]` of MMC3's register pairs, `D[7]` of MMC1's writes) have the
operation's value (the Operands line of each operation's rule). -/

namespace Sys2Proof

/-- `a` lies in the window from `lo` to `hi`, both included. -/
def inWindow (lo hi : Nat) (a : Addr) : Bool :=
  decide (lo ≤ a.toNat) && decide (a.toNat ≤ hi)

/-- The operands are ones the operation's encoding admits. -/
def Instr.wellFormed : Instr → Bool
  | .allCpuUnmappedRead a => inWindow 0x0000 0x5FFF a
  | .allCpuUnmappedWrite a _ => inWindow 0x0000 0x5FFF a
  | .allPpuUnmappedRead a => inWindow 0x2000 0xFFFF a
  | .allPpuUnmappedWrite a _ => inWindow 0x2000 0xFFFF a
  | .allNtMap _ => true
  | .allReserved => true
  | .nromPrgRamRead a => inWindow 0x6000 0x7FFF a
  | .nromPrgRamWrite a _ => inWindow 0x6000 0x7FFF a
  | .nromPrgRomRead a => inWindow 0x8000 0xFFFF a
  | .nromPrgRomWrite a _ => inWindow 0x8000 0xFFFF a
  | .nromChrRead a => inWindow 0x0000 0x1FFF a
  | .nromChrWrite a _ => inWindow 0x0000 0x1FFF a
  | .nromA12Rise => true
  | .nromIrqAck => true
  | .mmc1PrgRamRead a => inWindow 0x6000 0x7FFF a
  | .mmc1PrgRamWrite a _ => inWindow 0x6000 0x7FFF a
  | .mmc1PrgRomRead a => inWindow 0x8000 0xFFFF a
  | .mmc1Reset a d => inWindow 0x8000 0xFFFF a && d.getLsbD 7
  | .mmc1SerialControl a d => inWindow 0x8000 0x9FFF a && !d.getLsbD 7
  | .mmc1SerialChr0 a d => inWindow 0xA000 0xBFFF a && !d.getLsbD 7
  | .mmc1SerialChr1 a d => inWindow 0xC000 0xDFFF a && !d.getLsbD 7
  | .mmc1SerialPrg a d => inWindow 0xE000 0xFFFF a && !d.getLsbD 7
  | .mmc1ChrRead a => inWindow 0x0000 0x1FFF a
  | .mmc1ChrWrite a _ => inWindow 0x0000 0x1FFF a
  | .mmc1A12Rise => true
  | .mmc1IrqAck => true
  | .uxromWramRead a => inWindow 0x6000 0x7FFF a
  | .uxromWramWrite a _ => inWindow 0x6000 0x7FFF a
  | .uxromPrgRomRead a => inWindow 0x8000 0xFFFF a
  | .uxromBankSelect a _ => inWindow 0x8000 0xFFFF a
  | .uxromChrRead a => inWindow 0x0000 0x1FFF a
  | .uxromChrWrite a _ => inWindow 0x0000 0x1FFF a
  | .uxromA12Rise => true
  | .uxromIrqAck => true
  | .cnromWramRead a => inWindow 0x6000 0x7FFF a
  | .cnromWramWrite a _ => inWindow 0x6000 0x7FFF a
  | .cnromPrgRomRead a => inWindow 0x8000 0xFFFF a
  | .cnromChrBankSelect a _ => inWindow 0x8000 0xFFFF a
  | .cnromChrRead a => inWindow 0x0000 0x1FFF a
  | .cnromChrWrite a _ => inWindow 0x0000 0x1FFF a
  | .cnromA12Rise => true
  | .cnromIrqAck => true
  | .mmc3PrgRamRead a => inWindow 0x6000 0x7FFF a
  | .mmc3PrgRamWrite a _ => inWindow 0x6000 0x7FFF a
  | .mmc3PrgRomRead a => inWindow 0x8000 0xFFFF a
  | .mmc3BankSelect a _ => inWindow 0x8000 0x9FFF a && !a.getLsbD 0
  | .mmc3BankData a _ => inWindow 0x8000 0x9FFF a && a.getLsbD 0
  | .mmc3Mirroring a _ => inWindow 0xA000 0xBFFF a && !a.getLsbD 0
  | .mmc3PrgRamProtect a _ => inWindow 0xA000 0xBFFF a && a.getLsbD 0
  | .mmc3IrqLatch a _ => inWindow 0xC000 0xDFFF a && !a.getLsbD 0
  | .mmc3IrqReload a _ => inWindow 0xC000 0xDFFF a && a.getLsbD 0
  | .mmc3IrqDisable a _ => inWindow 0xE000 0xFFFF a && !a.getLsbD 0
  | .mmc3IrqEnable a _ => inWindow 0xE000 0xFFFF a && a.getLsbD 0
  | .mmc3ChrRead a => inWindow 0x0000 0x1FFF a
  | .mmc3ChrWrite a _ => inWindow 0x0000 0x1FFF a
  | .mmc3A12Rise => true
  | .mmc3IrqAck => true

end Sys2Proof
end

