-- ==== Sys2Proof/Decode.lean ====
section
/-! DEFINITION. The decoder (R91-R96), total on every 27-bit word, the opcode table's rows (R95), and after
them the encoder and the assembler's shorthand (R101, R102). -/

namespace Sys2Proof

/-! ## Fields of a transaction word (R90) -/

/-- `T[26:24]`. -/
def opField (w : TWord) : BitVec 3 := w.extractLsb' 24 3

/-- `T[23:8]`, the address `A`. -/
def addrField (w : TWord) : Addr := w.extractLsb' 8 16

/-- `T[7:0]`, the datum `D`. -/
def dataField (w : TWord) : Byte := w.extractLsb' 0 8

/-- `A[15:13]`, the 8KB region of the address (R93). -/
def region (a : Addr) : BitVec 3 := a.extractLsb' 13 3

/-! ## The decoder -/

/-- A CPU read of $6000-$7FFF (R96). -/
def decodeRamRead : Variant → Addr → Instr
  | .nrom, a => .nromPrgRamRead a
  | .mmc1, a => .mmc1PrgRamRead a
  | .uxrom, a => .uxromWramRead a
  | .cnrom, a => .cnromWramRead a
  | .mmc3, a => .mmc3PrgRamRead a

/-- A CPU write of $6000-$7FFF (R96). -/
def decodeRamWrite : Variant → Addr → Byte → Instr
  | .nrom, a, d => .nromPrgRamWrite a d
  | .mmc1, a, d => .mmc1PrgRamWrite a d
  | .uxrom, a, d => .uxromWramWrite a d
  | .cnrom, a, d => .cnromWramWrite a d
  | .mmc3, a, d => .mmc3PrgRamWrite a d

/-- A CPU read of $8000-$FFFF (R96). -/
def decodeRomRead : Variant → Addr → Instr
  | .nrom, a => .nromPrgRomRead a
  | .mmc1, a => .mmc1PrgRomRead a
  | .uxrom, a => .uxromPrgRomRead a
  | .cnrom, a => .cnromPrgRomRead a
  | .mmc3, a => .mmc3PrgRomRead a

/-- An MMC1 write to $8000-$FFFF: `D[7]` chooses reset or serial, `A[15:13]` the serial target (R96, R170). -/
def decodeMmc1Write (a : Addr) (d : Byte) : Instr :=
  if d.getLsbD 7 then .mmc1Reset a d
  else match (region a).toNat with
    | 4 => .mmc1SerialControl a d
    | 5 => .mmc1SerialChr0 a d
    | 6 => .mmc1SerialChr1 a d
    | _ => .mmc1SerialPrg a d

/-- An MMC3 write to $8000-$FFFF: `A[15:13]` and `A[0]` choose the register (R96, R220). -/
def decodeMmc3Write (a : Addr) (d : Byte) : Instr :=
  match (region a).toNat, a.getLsbD 0 with
  | 4, false => .mmc3BankSelect a d
  | 4, true => .mmc3BankData a d
  | 5, false => .mmc3Mirroring a d
  | 5, true => .mmc3PrgRamProtect a d
  | 6, false => .mmc3IrqLatch a d
  | 6, true => .mmc3IrqReload a d
  | _, false => .mmc3IrqDisable a d
  | _, true => .mmc3IrqEnable a d

/-- A CPU write of $8000-$FFFF (R96). -/
def decodeRomWrite : Variant → Addr → Byte → Instr
  | .nrom, a, d => .nromPrgRomWrite a d
  | .mmc1, a, d => decodeMmc1Write a d
  | .uxrom, a, d => .uxromBankSelect a d
  | .cnrom, a, d => .cnromChrBankSelect a d
  | .mmc3, a, d => decodeMmc3Write a d

/-- CPU_READ: regions 0 to 2 are unmapped (R61), 3 is the PRG-RAM window, 4 to 7 the PRG-ROM window (R93). -/
def decodeCpuRead (v : Variant) (a : Addr) : Instr :=
  match (region a).toNat with
  | 0 | 1 | 2 => .allCpuUnmappedRead a
  | 3 => decodeRamRead v a
  | _ => decodeRomRead v a

/-- CPU_WRITE, by the same regions. -/
def decodeCpuWrite (v : Variant) (a : Addr) (d : Byte) : Instr :=
  match (region a).toNat with
  | 0 | 1 | 2 => .allCpuUnmappedWrite a d
  | 3 => decodeRamWrite v a d
  | _ => decodeRomWrite v a d

/-- A PPU read of the CHR window $0000-$1FFF (R96). -/
def decodeChrRead : Variant → Addr → Instr
  | .nrom, a => .nromChrRead a
  | .mmc1, a => .mmc1ChrRead a
  | .uxrom, a => .uxromChrRead a
  | .cnrom, a => .cnromChrRead a
  | .mmc3, a => .mmc3ChrRead a

/-- A PPU write of the CHR window (R96). -/
def decodeChrWrite : Variant → Addr → Byte → Instr
  | .nrom, a, d => .nromChrWrite a d
  | .mmc1, a, d => .mmc1ChrWrite a d
  | .uxrom, a, d => .uxromChrWrite a d
  | .cnrom, a, d => .cnromChrWrite a d
  | .mmc3, a, d => .mmc3ChrWrite a d

/-- PPU_READ: region 0 is the CHR window, every other region is unmapped (R61, R93). -/
def decodePpuRead (v : Variant) (a : Addr) : Instr :=
  match (region a).toNat with
  | 0 => decodeChrRead v a
  | _ => .allPpuUnmappedRead a

/-- PPU_WRITE, by the same regions. -/
def decodePpuWrite (v : Variant) (a : Addr) (d : Byte) : Instr :=
  match (region a).toNat with
  | 0 => decodeChrWrite v a d
  | _ => .allPpuUnmappedWrite a d

/-- A12_RISE; `A` and `D` are ignored (R92). -/
def decodeA12 : Variant → Instr
  | .nrom => .nromA12Rise
  | .mmc1 => .mmc1A12Rise
  | .uxrom => .uxromA12Rise
  | .cnrom => .cnromA12Rise
  | .mmc3 => .mmc3A12Rise

/-- IRQ_ACK; `A` and `D` are ignored (R92). -/
def decodeAck : Variant → Instr
  | .nrom => .nromIrqAck
  | .mmc1 => .mmc1IrqAck
  | .uxrom => .uxromIrqAck
  | .cnrom => .cnromIrqAck
  | .mmc3 => .mmc3IrqAck

/-- The decoder of a block of variant `v` (R91, R95): total on the 27-bit words. Op 111 decodes to the reserved
operation, which has no meaning (R98). -/
def decode (v : Variant) (w : TWord) : Instr :=
  match (opField w).toNat with
  | 0 => decodeCpuRead v (addrField w)
  | 1 => decodeCpuWrite v (addrField w) (dataField w)
  | 2 => decodePpuRead v (addrField w)
  | 3 => decodePpuWrite v (addrField w) (dataField w)
  | 4 => decodeA12 v
  | 5 => decodeAck v
  | 6 => .allNtMap ((addrField w).extractLsb' 0 12)
  | _ => .allReserved

/-- Why bits are no transaction. -/
inductive DecodeError
  /-- A set bit above bit 26: every transaction is exactly one 27-bit word (R90). -/
  | notATransactionWord
  deriving DecidableEq, Repr

/-- The decoder on a number of any size: a number that does not fit in 27 bits is no transaction word (R90). -/
def decodeBits (v : Variant) (w : Nat) : Except DecodeError Instr :=
  if w < 2 ^ 27 then .ok (decode v (BitVec.ofNat 27 w)) else .error .notATransactionWord

/-- The variant `decodeTableWord` decodes for, that of `State.reset` (log entries 1 and 8): a word alone does not
say which variant's table it is read in (R95). -/
def tableVariant : Variant := .mmc3

/-- The instruction the decoder reads from an instruction whose bits are `w`. The words of one variant only can be
answered (log entry 8). -/
def decodeTableWord (_nbits w : Nat) : Option Instr :=
  match decodeBits tableVariant w with
  | .ok i => some i
  | .error _ => none

/-! ## The opcode table (R95) -/

/-- One row of spec/opcode_table.json: a word `T` belongs to it when `T &&& mask = pattern`. `variant?` is the
variant its mnemonic's first part names, none for `ALL.`. -/
structure Row where
  variant? : Option Variant
  mnemonic : String
  pattern  : TWord
  mask     : TWord
  deriving DecidableEq, Repr

/-- The rows whose mnemonic begins with `ALL.`. -/
def rowsAll : List Row :=
  [ ⟨none, "ALL.CPU_UNMAPPED_READ", 0x0000000, 0x7C00000⟩
  , ⟨none, "ALL.CPU_UNMAPPED_READ", 0x0400000, 0x7E00000⟩
  , ⟨none, "ALL.CPU_UNMAPPED_WRITE", 0x1000000, 0x7C00000⟩
  , ⟨none, "ALL.CPU_UNMAPPED_WRITE", 0x1400000, 0x7E00000⟩
  , ⟨none, "ALL.PPU_UNMAPPED_READ", 0x2800000, 0x7800000⟩
  , ⟨none, "ALL.PPU_UNMAPPED_READ", 0x2400000, 0x7C00000⟩
  , ⟨none, "ALL.PPU_UNMAPPED_READ", 0x2200000, 0x7E00000⟩
  , ⟨none, "ALL.PPU_UNMAPPED_WRITE", 0x3800000, 0x7800000⟩
  , ⟨none, "ALL.PPU_UNMAPPED_WRITE", 0x3400000, 0x7C00000⟩
  , ⟨none, "ALL.PPU_UNMAPPED_WRITE", 0x3200000, 0x7E00000⟩
  , ⟨none, "ALL.NT_MAP", 0x6000000, 0x7000000⟩
  , ⟨none, "ALL.RESERVED", 0x7000000, 0x7000000⟩ ]

/-- The rows whose mnemonic begins with `NROM.`. -/
def rowsNrom : List Row :=
  [ ⟨some .nrom, "NROM.PRG_RAM_READ", 0x0600000, 0x7E00000⟩
  , ⟨some .nrom, "NROM.PRG_RAM_WRITE", 0x1600000, 0x7E00000⟩
  , ⟨some .nrom, "NROM.PRG_ROM_READ", 0x0800000, 0x7800000⟩
  , ⟨some .nrom, "NROM.PRG_ROM_WRITE", 0x1800000, 0x7800000⟩
  , ⟨some .nrom, "NROM.CHR_READ", 0x2000000, 0x7E00000⟩
  , ⟨some .nrom, "NROM.CHR_WRITE", 0x3000000, 0x7E00000⟩
  , ⟨some .nrom, "NROM.A12_RISE", 0x4000000, 0x7000000⟩
  , ⟨some .nrom, "NROM.IRQ_ACK", 0x5000000, 0x7000000⟩ ]

/-- The rows whose mnemonic begins with `MMC1.`. -/
def rowsMmc1 : List Row :=
  [ ⟨some .mmc1, "MMC1.PRG_RAM_READ", 0x0600000, 0x7E00000⟩
  , ⟨some .mmc1, "MMC1.PRG_RAM_WRITE", 0x1600000, 0x7E00000⟩
  , ⟨some .mmc1, "MMC1.PRG_ROM_READ", 0x0800000, 0x7800000⟩
  , ⟨some .mmc1, "MMC1.RESET", 0x1800080, 0x7800080⟩
  , ⟨some .mmc1, "MMC1.SERIAL_CONTROL", 0x1800000, 0x7E00080⟩
  , ⟨some .mmc1, "MMC1.SERIAL_CHR0", 0x1A00000, 0x7E00080⟩
  , ⟨some .mmc1, "MMC1.SERIAL_CHR1", 0x1C00000, 0x7E00080⟩
  , ⟨some .mmc1, "MMC1.SERIAL_PRG", 0x1E00000, 0x7E00080⟩
  , ⟨some .mmc1, "MMC1.CHR_READ", 0x2000000, 0x7E00000⟩
  , ⟨some .mmc1, "MMC1.CHR_WRITE", 0x3000000, 0x7E00000⟩
  , ⟨some .mmc1, "MMC1.A12_RISE", 0x4000000, 0x7000000⟩
  , ⟨some .mmc1, "MMC1.IRQ_ACK", 0x5000000, 0x7000000⟩ ]

/-- The rows whose mnemonic begins with `UXROM.`. -/
def rowsUxrom : List Row :=
  [ ⟨some .uxrom, "UXROM.WRAM_READ", 0x0600000, 0x7E00000⟩
  , ⟨some .uxrom, "UXROM.WRAM_WRITE", 0x1600000, 0x7E00000⟩
  , ⟨some .uxrom, "UXROM.PRG_ROM_READ", 0x0800000, 0x7800000⟩
  , ⟨some .uxrom, "UXROM.BANK_SELECT", 0x1800000, 0x7800000⟩
  , ⟨some .uxrom, "UXROM.CHR_READ", 0x2000000, 0x7E00000⟩
  , ⟨some .uxrom, "UXROM.CHR_WRITE", 0x3000000, 0x7E00000⟩
  , ⟨some .uxrom, "UXROM.A12_RISE", 0x4000000, 0x7000000⟩
  , ⟨some .uxrom, "UXROM.IRQ_ACK", 0x5000000, 0x7000000⟩ ]

/-- The rows whose mnemonic begins with `CNROM.`. -/
def rowsCnrom : List Row :=
  [ ⟨some .cnrom, "CNROM.WRAM_READ", 0x0600000, 0x7E00000⟩
  , ⟨some .cnrom, "CNROM.WRAM_WRITE", 0x1600000, 0x7E00000⟩
  , ⟨some .cnrom, "CNROM.PRG_ROM_READ", 0x0800000, 0x7800000⟩
  , ⟨some .cnrom, "CNROM.CHR_BANK_SELECT", 0x1800000, 0x7800000⟩
  , ⟨some .cnrom, "CNROM.CHR_READ", 0x2000000, 0x7E00000⟩
  , ⟨some .cnrom, "CNROM.CHR_WRITE", 0x3000000, 0x7E00000⟩
  , ⟨some .cnrom, "CNROM.A12_RISE", 0x4000000, 0x7000000⟩
  , ⟨some .cnrom, "CNROM.IRQ_ACK", 0x5000000, 0x7000000⟩ ]

/-- The rows whose mnemonic begins with `MMC3.`. -/
def rowsMmc3 : List Row :=
  [ ⟨some .mmc3, "MMC3.PRG_RAM_READ", 0x0600000, 0x7E00000⟩
  , ⟨some .mmc3, "MMC3.PRG_RAM_WRITE", 0x1600000, 0x7E00000⟩
  , ⟨some .mmc3, "MMC3.PRG_ROM_READ", 0x0800000, 0x7800000⟩
  , ⟨some .mmc3, "MMC3.BANK_SELECT", 0x1800000, 0x7E00100⟩
  , ⟨some .mmc3, "MMC3.BANK_DATA", 0x1800100, 0x7E00100⟩
  , ⟨some .mmc3, "MMC3.MIRRORING", 0x1A00000, 0x7E00100⟩
  , ⟨some .mmc3, "MMC3.PRG_RAM_PROTECT", 0x1A00100, 0x7E00100⟩
  , ⟨some .mmc3, "MMC3.IRQ_LATCH", 0x1C00000, 0x7E00100⟩
  , ⟨some .mmc3, "MMC3.IRQ_RELOAD", 0x1C00100, 0x7E00100⟩
  , ⟨some .mmc3, "MMC3.IRQ_DISABLE", 0x1E00000, 0x7E00100⟩
  , ⟨some .mmc3, "MMC3.IRQ_ENABLE", 0x1E00100, 0x7E00100⟩
  , ⟨some .mmc3, "MMC3.CHR_READ", 0x2000000, 0x7E00000⟩
  , ⟨some .mmc3, "MMC3.CHR_WRITE", 0x3000000, 0x7E00000⟩
  , ⟨some .mmc3, "MMC3.A12_RISE", 0x4000000, 0x7000000⟩
  , ⟨some .mmc3, "MMC3.IRQ_ACK", 0x5000000, 0x7000000⟩ ]

/-- The whole table, in its order. -/
def table : List Row := rowsAll ++ rowsNrom ++ rowsMmc1 ++ rowsUxrom ++ rowsCnrom ++ rowsMmc3

/-- The word belongs to the row. -/
def Row.takes (r : Row) (w : TWord) : Bool := w &&& r.mask == r.pattern

/-- The rows the decoder of a block of variant `v` considers (R95). -/
def rowsFor (v : Variant) : List Row :=
  table.filter fun r => r.variant? == none || r.variant? == some v

/-! ## The encoder -/

/-- `{op, A, D}` (R90). -/
def tword (op : BitVec 3) (a : Addr) (d : Byte) : TWord := (op ++ a) ++ d

/-- The word of a transaction, ignored fields zero (R91, R92, R101). -/
def encode : Instr → TWord
  | .allCpuUnmappedRead a => tword 0 a 0
  | .allCpuUnmappedWrite a d => tword 1 a d
  | .allPpuUnmappedRead a => tword 2 a 0
  | .allPpuUnmappedWrite a d => tword 3 a d
  | .allNtMap a => tword 6 (a.setWidth 16) 0
  | .allReserved => tword 7 0 0
  | .nromPrgRamRead a => tword 0 a 0
  | .nromPrgRamWrite a d => tword 1 a d
  | .nromPrgRomRead a => tword 0 a 0
  | .nromPrgRomWrite a d => tword 1 a d
  | .nromChrRead a => tword 2 a 0
  | .nromChrWrite a d => tword 3 a d
  | .nromA12Rise => tword 4 0 0
  | .nromIrqAck => tword 5 0 0
  | .mmc1PrgRamRead a => tword 0 a 0
  | .mmc1PrgRamWrite a d => tword 1 a d
  | .mmc1PrgRomRead a => tword 0 a 0
  | .mmc1Reset a d => tword 1 a d
  | .mmc1SerialControl a d => tword 1 a d
  | .mmc1SerialChr0 a d => tword 1 a d
  | .mmc1SerialChr1 a d => tword 1 a d
  | .mmc1SerialPrg a d => tword 1 a d
  | .mmc1ChrRead a => tword 2 a 0
  | .mmc1ChrWrite a d => tword 3 a d
  | .mmc1A12Rise => tword 4 0 0
  | .mmc1IrqAck => tword 5 0 0
  | .uxromWramRead a => tword 0 a 0
  | .uxromWramWrite a d => tword 1 a d
  | .uxromPrgRomRead a => tword 0 a 0
  | .uxromBankSelect a d => tword 1 a d
  | .uxromChrRead a => tword 2 a 0
  | .uxromChrWrite a d => tword 3 a d
  | .uxromA12Rise => tword 4 0 0
  | .uxromIrqAck => tword 5 0 0
  | .cnromWramRead a => tword 0 a 0
  | .cnromWramWrite a d => tword 1 a d
  | .cnromPrgRomRead a => tword 0 a 0
  | .cnromChrBankSelect a d => tword 1 a d
  | .cnromChrRead a => tword 2 a 0
  | .cnromChrWrite a d => tword 3 a d
  | .cnromA12Rise => tword 4 0 0
  | .cnromIrqAck => tword 5 0 0
  | .mmc3PrgRamRead a => tword 0 a 0
  | .mmc3PrgRamWrite a d => tword 1 a d
  | .mmc3PrgRomRead a => tword 0 a 0
  | .mmc3BankSelect a d => tword 1 a d
  | .mmc3BankData a d => tword 1 a d
  | .mmc3Mirroring a d => tword 1 a d
  | .mmc3PrgRamProtect a d => tword 1 a d
  | .mmc3IrqLatch a d => tword 1 a d
  | .mmc3IrqReload a d => tword 1 a d
  | .mmc3IrqDisable a d => tword 1 a d
  | .mmc3IrqEnable a d => tword 1 a d
  | .mmc3ChrRead a => tword 2 a 0
  | .mmc3ChrWrite a d => tword 3 a d
  | .mmc3A12Rise => tword 4 0 0
  | .mmc3IrqAck => tword 5 0 0

/-! ## Assembler shorthand and pseudo-instructions (R101, R102) -/

/-- `RD $a`. -/
def asmRd (a : Addr) : TWord := tword 0 a 0
/-- `WR $a, #$d`. -/
def asmWr (a : Addr) (d : Byte) : TWord := tword 1 a d
/-- `PRD $a`. -/
def asmPrd (a : Addr) : TWord := tword 2 a 0
/-- `PWR $a, #$d`. -/
def asmPwr (a : Addr) (d : Byte) : TWord := tword 3 a d
/-- `A12`. -/
def asmA12 : TWord := tword 4 0 0
/-- `ACK`. -/
def asmAck : TWord := tword 5 0 0
/-- `NT $a`. The four high address bits are kept, as vector L2-1 writes them (`NT $2C05` is `0x62C0500`), where R101
and R92 would put zeros: the spec says both. DESIGN CHOICE (log entry 30); the two words decode alike. -/
def asmNt (a : Addr) : TWord := tword 6 a 0

/-- `MMC1W $a, #v`: five serial writes of the bits of `v`, bit 0 first. -/
def asmMmc1W (a : Addr) (v : BitVec 5) : List TWord :=
  [0, 1, 2, 3, 4].map fun i => asmWr a (if v.getLsbD i then 1 else 0)

/-- `MMC1RST`. -/
def asmMmc1Rst : List TWord := [asmWr 0x8000 0x80]

/-- `MMC3R i, #v, m`: select register `i` with the mode bits `m` in bits 7:6, then write `v` to it. -/
def asmMmc3R (i : BitVec 3) (v : Byte) (m : BitVec 2) : List TWord :=
  [asmWr 0x8000 (m ++ (0 : BitVec 3) ++ i), asmWr 0x8001 v]

end Sys2Proof
end

