-- ==== Sys2Proof/Config.lean ====
section
/-! DEFINITION. What the implementation fixes: the sizes the spec states, the one free value, and what a
storage byte that no list entry names reads as. -/

namespace Sys2Proof.Config

/-- `OPEN_BUS`: the constant a read that reaches no storage returns (R10, R26; 93_implementation_defined.md
I1 makes it a parameter). FREE VALUE (log entry 3): it has no body, so nothing can be proved of it. It is the
value `State.reset` puts into its `params.openBus`. -/
opaque openBus : Byte

/-- What a storage byte that the cell list does not name reads as. DESIGN CHOICE (log entry 2): every content of
an array is representable, so this fixes only what `State.reset` holds. -/
def unlistedByte : Byte := 0

/-- PRG-RAM is 8192 bytes wherever it exists (R10, R25). -/
def prgRamSize : Nat := 8192

/-- CHR-RAM is 8192 bytes in every variant (R24, R140). -/
def chrRamSize : Nat := 8192

/-- The header is the first 16 bytes of the image (R131). -/
def headerSize : Nat := 16

/-- A trainer is exactly 512 bytes (R7, R138). -/
def trainerSize : Nat := 512

end Sys2Proof.Config
end

