-- ==== Sys2Proof/Machine/State.lean ====
section
/-! DEFINITION. The state of a constructed block as plain data (spec/10_state.md), its reasons to stop, and the
state right after construction, the block's only reset (R280). -/

namespace Sys2Proof.Machine

/-- A byte array: (offset, byte) pairs, offsets strictly rising, no entry equal to `Config.unlistedByte`. -/
abbrev Memory := List Host.Cell

/-- The parameters the block keeps for its life (R10). PRG_RAM_INIT and CHR_RAM_INIT are arguments of construction. -/
structure Params where
  /-- `OPEN_BUS`. -/
  openBus : Byte
  /-- `NROM_PRG_RAM`. -/
  nromPrgRam : Bool
  /-- `UXROM_BUS_CONFLICTS`. -/
  uxromBusConflicts : Bool
  deriving DecidableEq, Repr

/-- The configuration record (R7, R130). `cfg.variant` is the constructor of `State.regs` (log entry 27). -/
structure Cfg where
  mapper : BitVec 12
  submapper : BitVec 4
  prgLen : Nat
  chrLen : Nat
  chrIsRam : Bool
  mirroring : Mirroring
  battery : Bool
  fourScreen : Bool
  trainer : Option (List Byte)
  deriving DecidableEq, Repr

/-- MMC1's registers (R29-R32). -/
structure Mmc1 where
  shift : BitVec 5
  count : BitVec 3
  control : BitVec 5
  chr0 : BitVec 5
  chr1 : BitVec 5
  prg : BitVec 5
  deriving DecidableEq, Repr

/-- UxROM's register (R33, R48). -/
structure Uxrom where
  bank : BitVec 8
  deriving DecidableEq, Repr

/-- CNROM's register (R34, R48). -/
structure Cnrom where
  chrBank : BitVec 8
  deriving DecidableEq, Repr

/-- MMC3's registers (R35-R44); the one-bit registers are Booleans, true for 1. `r` holds `m3.R[0..7]`. -/
structure Mmc3 where
  sel : BitVec 3
  prgMode : Bool
  chrMode : Bool
  r : Vector Byte 8
  mirror : Bool
  ramEnable : Bool
  ramProtect : Bool
  irqLatch : BitVec 8
  irqCounter : BitVec 8
  irqReload : Bool
  irqEnable : Bool
  irqPending : Bool
  prevA12 : Bool
  deriving DecidableEq, Repr

/-- The bank-index register file and protocol state: only the variant's registers exist (R27, R28, R48). -/
inductive Regs
  | nrom
  | mmc1 (r : Mmc1)
  | uxrom (r : Uxrom)
  | cnrom (r : Cnrom)
  | mmc3 (r : Mmc3)
  deriving DecidableEq, Repr

/-- What a transaction returned to the host (R91). -/
inductive Reply
  | nothing
  | byte (b : Byte)
  | offset (o : VramOffset)
  deriving DecidableEq, Repr

/-- The block. `cfg`, `params` and `prgRom` are constants of its life (R20, R23); `chr` is CHR-ROM or CHR-RAM by
`cfg.chrIsRam` (R24); `prgRam` is empty where the block has none (R25). `inputs`, `reply` and `started` are the
model's own (log entries 5, 6, 7): the host's transactions not yet taken, oldest first; what the last one
returned; whether one has been taken since construction. -/
structure State where
  cfg : Cfg
  params : Params
  prgRom : Memory
  chr : Memory
  prgRam : Memory
  regs : Regs
  inputs : List TWord
  reply : Reply
  started : Bool
  deriving DecidableEq, Repr

/-- The model's own faults; no transaction of a block that passed the configuration check raises one (R64, R152,
R260), and each is safe: the model stops where the spec makes no claim (log entry 11). -/
inductive Fault
  /-- A read of a PRG-ROM offset at or past `cfg.prg_len`. Raised by the PRG-ROM reads and by UXROM.BANK_SELECT's
  bus-conflict check. Safe. -/
  | prgRomOutOfRange
  /-- An access to a CHR offset at or past `cfg.chr_len`. Raised by the CHR reads and the CHR-RAM writes. Safe. -/
  | chrOutOfRange
  /-- A bank number to be reduced modulo a bank count of 0. Raised by UXROM.BANK_SELECT and CNROM.CHR_BANK_SELECT.
  Safe. -/
  | noBanks
  deriving DecidableEq, Repr

/-- The refusals. -/
inductive Refusal
  /-- An instruction not modelled yet, by its mnemonic; raised by `exec`'s arms only. Safe. -/
  | notModelled (mnemonic : String)
  /-- Op 111 spells no transaction; raised by ALL.RESERVED (R98). Safe. -/
  | reservedOp
  /-- An operation of another variant was given to `exec` directly; the decoder of a block never gives one (R95).
  Raised by every operation that is not an `ALL.` one. Safe (log entry 10). -/
  | wrongVariant
  deriving DecidableEq, Repr

/-- The outcome of one transaction. -/
abbrev Result := Host.Outcome State Fault Refusal

/-- MMC1 after construction (R29-R32, R48; D14, log entry 13). -/
def mmc1Reset : Mmc1 :=
  { shift := 0, count := 0, control := 0x0C, chr0 := 0, chr1 := 0, prg := 0 }

/-- UxROM after construction (R33, R48; D26, log entry 13). -/
def uxromReset : Uxrom := { bank := 0 }

/-- CNROM after construction (R34, R48; D26, log entry 13). -/
def cnromReset : Cnrom := { chrBank := 0 }

/-- MMC3 after construction, for the header's mirroring (R35-R44, R48; D26, log entry 13). -/
def mmc3Reset (m : Mirroring) : Mmc3 :=
  { sel := 0, prgMode := false, chrMode := false, r := Vector.replicate 8 0,
    mirror := m == .horizontal, ramEnable := true, ramProtect := false,
    irqLatch := 0, irqCounter := 0, irqReload := false, irqEnable := false, irqPending := false,
    prevA12 := false }

/-- A variant's registers after construction (R48). -/
def regsReset (m : Mirroring) : Variant → Regs
  | .nrom => .nrom
  | .mmc1 => .mmc1 mmc1Reset
  | .uxrom => .uxrom uxromReset
  | .cnrom => .cnrom cnromReset
  | .mmc3 => .mmc3 (mmc3Reset m)

/-- The configuration of the block that `State.reset` is. DESIGN CHOICE (log entry 1): the spec gives construction
from an image and no image. An MMC3 with 128KB of PRG-ROM and CHR-RAM. -/
def resetCfg : Cfg :=
  { mapper := 4, submapper := 0, prgLen := 131072, chrLen := Config.chrRamSize, chrIsRam := true,
    mirroring := .horizontal, battery := false, fourScreen := false, trainer := none }

/-- The parameters of that block: OPEN_BUS free (log entry 3), the two options at the spec's defaults (log entry 4). -/
def resetParams : Params :=
  { openBus := Config.openBus, nromPrgRam := true, uxromBusConflicts := false }

/-- The block right after construction (R151, R280): registers as R48 says, arrays with nothing listed, no
transaction waiting. -/
def State.reset : State :=
  { cfg := resetCfg, params := resetParams, prgRom := [], chr := [], prgRam := [],
    regs := regsReset resetCfg.mirroring .mmc3, inputs := [], reply := .nothing, started := false }

end Sys2Proof.Machine
end

