-- ==== Sys2Proof/Machine/Ops.lean ====
section
/-! DEFINITION. The named operations over storage, configuration and registers that the meanings share. -/

namespace Sys2Proof.Machine

/-! ## Byte arrays -/

/-- Byte `o` of an array. -/
def Memory.read : Memory → Nat → Byte
  | [], _ => Config.unlistedByte
  | (k, v) :: t, o => if k = o then v else Memory.read t o

/-- Sets byte `o` to `v` and keeps the canonical form: the default byte is not listed. -/
def Memory.write : Memory → Nat → Byte → Memory
  | [], o, v => if v = Config.unlistedByte then [] else [(o, v)]
  | (k, w) :: t, o, v =>
    if o < k then (if v = Config.unlistedByte then (k, w) :: t else (o, v) :: (k, w) :: t)
    else if o = k then (if v = Config.unlistedByte then t else (k, v) :: t)
    else (k, w) :: Memory.write t o v

/-- Offsets rise strictly from `lo` on and no entry holds the default byte. -/
def Memory.wfFrom : Nat → Memory → Bool
  | _, [] => true
  | lo, (k, v) :: t => decide (lo ≤ k) && v != Config.unlistedByte && Memory.wfFrom (k + 1) t

/-- The canonical form. -/
def Memory.wf (m : Memory) : Bool := Memory.wfFrom 0 m

/-- Every listed offset lies below `n`. -/
def Memory.below (m : Memory) (n : Nat) : Bool := m.all fun c => decide (c.1 < n)

/-- The array that holds the bytes of a list, the first at offset `i`. -/
def Memory.ofBytesFrom : Nat → List Byte → Memory
  | _, [] => []
  | i, b :: t =>
    if b = Config.unlistedByte then Memory.ofBytesFrom (i + 1) t else (i, b) :: Memory.ofBytesFrom (i + 1) t

/-- The array that holds the bytes of a list. -/
def Memory.ofBytes (l : List Byte) : Memory := Memory.ofBytesFrom 0 l

/-- The first `n` bytes of an array, in order. -/
def Memory.toBytes (m : Memory) (n : Nat) : List Byte := (List.range n).map fun o => Memory.read m o

/-! ## Variant and bank counts -/

/-- The variant whose registers these are. -/
def Regs.variant : Regs → Variant
  | .nrom => .nrom
  | .mmc1 _ => .mmc1
  | .uxrom _ => .uxrom
  | .cnrom _ => .cnrom
  | .mmc3 _ => .mmc3

/-- `cfg.variant` (R7): fixed when the block is constructed (R2). -/
def State.variant (s : State) : Variant := s.regs.variant

/-- `n_prg16` (R9). -/
def Cfg.nPrg16 (c : Cfg) : Nat := c.prgLen / 16384
/-- `n_prg8` (R9). -/
def Cfg.nPrg8 (c : Cfg) : Nat := c.prgLen / 8192
/-- `n_chr8` (R9). -/
def Cfg.nChr8 (c : Cfg) : Nat := c.chrLen / 8192
/-- `n_chr4` (R9). -/
def Cfg.nChr4 (c : Cfg) : Nat := c.chrLen / 4096
/-- `n_chr1` (R9). -/
def Cfg.nChr1 (c : Cfg) : Nat := c.chrLen / 1024

/-- `norm(b, n) = b mod n` (R62); `n > 0` by the configuration check. -/
def norm (b n : Nat) : Nat := b % n

/-- The block has PRG-RAM (R25). -/
def hasPrgRam (v : Variant) (p : Params) : Bool :=
  match v with
  | .mmc1 | .mmc3 => true
  | .nrom => p.nromPrgRam
  | .uxrom | .cnrom => false

/-! ## Field updates -/

/-- Sets the answer to the host. -/
def State.setReply (s : State) (r : Reply) : State := { s with reply := r }
/-- Sets the registers. -/
def State.setRegs (s : State) (r : Regs) : State := { s with regs := r }
/-- Sets PRG-RAM. -/
def State.setPrgRam (s : State) (m : Memory) : State := { s with prgRam := m }
/-- Sets CHR storage. -/
def State.setChr (s : State) (m : Memory) : State := { s with chr := m }
/-- Takes the oldest waiting transaction off the queue, leaving `ws`. -/
def State.take (s : State) (ws : List TWord) : State := { s with inputs := ws, started := true }

/-! ## Answers -/

/-- A transaction that returns nothing is complete (R91). -/
def State.done (s : State) : Result := .next (s.setReply .nothing)

/-- A transaction returns one byte (R12, R91). -/
def State.answer (s : State) (b : Byte) : Result := .next (s.setReply (.byte b))

/-- A read that reaches no storage returns `OPEN_BUS` (R10, R61). -/
def State.answerOpenBus (s : State) : Result := s.answer s.params.openBus

/-! ## Storage (R64-R66) -/

/-- Byte `o` of PRG-ROM, if the array has one. -/
def State.prgByte? (s : State) (o : Nat) : Option Byte :=
  if o < s.cfg.prgLen then some (Memory.read s.prgRom o) else none

/-- `return PrgRom(o)`. -/
def State.readPrgRom (s : State) (o : Nat) : Result :=
  match s.prgByte? o with
  | some b => s.answer b
  | none => .fault .prgRomOutOfRange

/-- `return ChrRead(o)`. -/
def State.readChr (s : State) (o : Nat) : Result :=
  if o < s.cfg.chrLen then s.answer (Memory.read s.chr o) else .fault .chrOutOfRange

/-- `ChrWrite(o, v)`: no effect when CHR is ROM (R65). -/
def State.writeChr (s : State) (o : Nat) (v : Byte) : Result :=
  if s.cfg.chrIsRam then
    if o < s.cfg.chrLen then (s.setChr (Memory.write s.chr o v)).done else .fault .chrOutOfRange
  else s.done

/-- `return PrgRamRead(o)`. -/
def State.readPrgRam (s : State) (o : Nat) : Result := s.answer (Memory.read s.prgRam o)

/-- `PrgRamWrite(o, v)`. -/
def State.writePrgRam (s : State) (o : Nat) (v : Byte) : Result :=
  (s.setPrgRam (Memory.write s.prgRam o v)).done

/-! ## Registers: an operation of a variant acts on that variant's registers only -/

/-- An NROM operation. -/
def State.withNrom (s : State) (f : Unit → Result) : Result :=
  match s.regs with
  | .nrom => f ()
  | _ => .refused .wrongVariant

/-- An MMC1 operation. -/
def State.withMmc1 (s : State) (f : Mmc1 → Result) : Result :=
  match s.regs with
  | .mmc1 r => f r
  | _ => .refused .wrongVariant

/-- A UxROM operation. -/
def State.withUxrom (s : State) (f : Uxrom → Result) : Result :=
  match s.regs with
  | .uxrom r => f r
  | _ => .refused .wrongVariant

/-- A CNROM operation. -/
def State.withCnrom (s : State) (f : Cnrom → Result) : Result :=
  match s.regs with
  | .cnrom r => f r
  | _ => .refused .wrongVariant

/-- An MMC3 operation. -/
def State.withMmc3 (s : State) (f : Mmc3 → Result) : Result :=
  match s.regs with
  | .mmc3 r => f r
  | _ => .refused .wrongVariant

/-! ## The interrupt request

The block takes no exception and returns from none: it saves no state, changes no mode and supplies no vector
when the CPU takes the interrupt (R266). All that stands in their place is the request, a level (R264). -/

/-- Raises the MMC3 interrupt request (R43, R263). -/
def Mmc3.raiseIrq (r : Mmc3) : Mmc3 := { r with irqPending := true }

/-- Clears the MMC3 interrupt request (R43, R263). -/
def Mmc3.clearIrq (r : Mmc3) : Mmc3 := { r with irqPending := false }

/-! ## Taking the next transaction -/

/-- The oldest waiting transaction word and the state without it (R74); none when the host has issued none. -/
def State.fetch (s : State) : Option (TWord × State) :=
  match s.inputs with
  | [] => none
  | w :: ws => some (w, s.take ws)

end Sys2Proof.Machine
end

