-- ==== Sys2Proof/Machine/Operands.lean ====
section
/-! DEFINITION. The operand forms: address and data subfields (R93, R94) and, for every window of every variant,
the storage offset an address translates to (R63, R67). -/

namespace Sys2Proof.Machine

/-! ## Address subfields -/

/-- `A mod S`, the offset within a slot of `size` bytes (R63). -/
def slotOffset (a : Addr) (size : Nat) : Nat := a.toNat % size

/-- Slot translation (R63): bank `k` of `size` bytes and the offset in it. -/
def translate (k size : Nat) (a : Addr) : Nat := k * size + slotOffset a size

/-- `A[12:0]`, the offset within the 8KB of PRG-RAM. -/
def ramOffset (a : Addr) : Nat := slotOffset a 8192

/-- `A[14]`: which 16KB half of the PRG-ROM window. -/
def prgSlot16 (a : Addr) : Nat := a.toNat / 16384 % 2

/-- `A[14:13]`: which 8KB slot of the PRG-ROM window. -/
def prgSlot8 (a : Addr) : Nat := a.toNat / 8192 % 4

/-- `A[12]`: which 4KB half of the CHR window. -/
def chrSlot4 (a : Addr) : Nat := a.toNat / 4096 % 2

/-- `A[12:10]`: which 1KB slot of the CHR window. -/
def chrSlot1 (a : Addr) : Nat := a.toNat / 1024 % 8

/-! ## Fixed windows -/

/-- `A[14:0] mod cfg.prg_len`: NROM's and CNROM's PRG-ROM window (R163, R210). -/
def Cfg.fixedPrgOffset (c : Cfg) (a : Addr) : Nat := slotOffset a 32768 % c.prgLen

/-- `A[12:0]`: NROM's and UxROM's CHR window (R165, R202). -/
def fixedChrOffset (a : Addr) : Nat := slotOffset a 8192

/-! ## MMC1 -/

/-- `m1.control[1:0]` (R30). -/
def Mmc1.mirror (r : Mmc1) : BitVec 2 := r.control.extractLsb' 0 2
/-- `m1.control[3:2]` (R30). -/
def Mmc1.prgMode (r : Mmc1) : BitVec 2 := r.control.extractLsb' 2 2
/-- `m1.control[4]` (R30). -/
def Mmc1.chrMode (r : Mmc1) : Bool := r.control.getLsbD 4
/-- `m1.prg[3:0]` (R32). -/
def Mmc1.bank (r : Mmc1) : BitVec 4 := r.prg.extractLsb' 0 4
/-- `m1.prg[4]`, 1 disables PRG-RAM (R32). -/
def Mmc1.ramDisable (r : Mmc1) : Bool := r.prg.getLsbD 4

/-- The 16KB bank a PRG slot (0 or 1) shows (R178). -/
def Mmc1.prgBank (r : Mmc1) (n slot : Nat) : Nat :=
  match r.prgMode.toNat with
  | 0 | 1 => norm ((r.bank &&& 0xE).toNat ||| slot) n
  | 2 => if slot = 0 then 0 else norm r.bank.toNat n
  | _ => if slot = 0 then norm r.bank.toNat n else n - 1

/-- The 4KB bank a CHR slot (0 or 1) shows (R179). -/
def Mmc1.chrBank (r : Mmc1) (n slot : Nat) : Nat :=
  match r.chrMode with
  | false => norm ((r.chr0 &&& 0x1E).toNat ||| slot) n
  | true => if slot = 0 then norm r.chr0.toNat n else norm r.chr1.toNat n

/-- Where an address of the PRG-ROM window lies in PRG-ROM (R182). -/
def Mmc1.prgOffset (r : Mmc1) (c : Cfg) (a : Addr) : Nat :=
  translate (r.prgBank c.nPrg16 (prgSlot16 a)) 16384 a

/-- Where an address of the CHR window lies in CHR storage (R183, R184). -/
def Mmc1.chrOffset (r : Mmc1) (c : Cfg) (a : Addr) : Nat :=
  translate (r.chrBank c.nChr4 (chrSlot4 a)) 4096 a

/-! ## UxROM and CNROM -/

/-- Where an address of UxROM's PRG-ROM window lies in PRG-ROM (R200). -/
def Uxrom.prgOffset (r : Uxrom) (c : Cfg) (a : Addr) : Nat :=
  translate (if prgSlot16 a = 0 then r.bank.toNat else c.nPrg16 - 1) 16384 a

/-- Where an address of CNROM's CHR window lies in CHR storage (R212, R213). -/
def Cnrom.chrOffset (r : Cnrom) (a : Addr) : Nat := translate r.chrBank.toNat 8192 a

/-! ## MMC3 -/

/-- The 8KB bank a PRG slot (0 to 3) shows (R230). -/
def Mmc3.prgBank (r : Mmc3) (n slot : Nat) : Nat :=
  match slot, r.prgMode with
  | 0, false => norm r.r[6].toNat n
  | 0, true => (2 * n - 2) % n
  | 1, _ => norm r.r[7].toNat n
  | 2, false => (2 * n - 2) % n
  | 2, true => norm r.r[6].toNat n
  | _, _ => n - 1

/-- The raw 1KB bank number of a CHR slot when `chr_mode` is 0 (R231). -/
def Mmc3.chrRaw (r : Mmc3) (slot : Nat) : Byte :=
  match slot with
  | 0 => r.r[0] &&& 0xFE
  | 1 => r.r[0] ||| 1
  | 2 => r.r[1] &&& 0xFE
  | 3 => r.r[1] ||| 1
  | 4 => r.r[2]
  | 5 => r.r[3]
  | 6 => r.r[4]
  | _ => r.r[5]

/-- The 1KB bank a CHR slot (0 to 7) shows; `chr_mode` 1 swaps the halves of the window (R231). -/
def Mmc3.chrBank (r : Mmc3) (n slot : Nat) : Nat :=
  norm (r.chrRaw (if r.chrMode then (slot + 4) % 8 else slot)).toNat n

/-- Where an address of the PRG-ROM window lies in PRG-ROM (R242). -/
def Mmc3.prgOffset (r : Mmc3) (c : Cfg) (a : Addr) : Nat :=
  translate (r.prgBank c.nPrg8 (prgSlot8 a)) 8192 a

/-- Where an address of the CHR window lies in CHR storage (R243, R244). -/
def Mmc3.chrOffset (r : Mmc3) (c : Cfg) (a : Addr) : Nat :=
  translate (r.chrBank c.nChr1 (chrSlot1 a)) 1024 a

end Sys2Proof.Machine
end

