-- ==== Sys2Proof/Machine/Cnrom.lean ====
section
/-! DEFINITION. CNROM, mapper 3 (spec/45_cnrom.md). -/

namespace Sys2Proof.Machine

/-- CNROM.WRAM_READ (R214). -/
def execCnromWramRead (_a : Addr) (s : State) : Result := s.withCnrom fun _ => s.answerOpenBus

/-- CNROM.WRAM_WRITE: no effect (R218). -/
def execCnromWramWrite (_a : Addr) (_d : Byte) (s : State) : Result := s.withCnrom fun _ => s.done

/-- CNROM.PRG_ROM_READ (R210). -/
def execCnromPrgRomRead (a : Addr) (s : State) : Result :=
  s.withCnrom fun _ => s.readPrgRom (s.cfg.fixedPrgOffset a)

/-- CNROM.CHR_BANK_SELECT: `s.cn.chr_bank <- D mod n_chr8`, no bus conflicts (R211). -/
def execCnromChrBankSelect (_a : Addr) (d : Byte) (s : State) : Result :=
  s.withCnrom fun _ =>
    if s.cfg.nChr8 = 0 then .fault .noBanks
    else (s.setRegs (.cnrom { chrBank := BitVec.ofNat 8 (norm d.toNat s.cfg.nChr8) })).done

/-- CNROM.CHR_READ (R212). -/
def execCnromChrRead (a : Addr) (s : State) : Result :=
  s.withCnrom fun r => s.readChr (r.chrOffset a)

/-- CNROM.CHR_WRITE (R213). -/
def execCnromChrWrite (a : Addr) (d : Byte) (s : State) : Result :=
  s.withCnrom fun r => s.writeChr (r.chrOffset a) d

/-- CNROM.A12_RISE: no-op (R216). -/
def execCnromA12Rise (s : State) : Result := s.withCnrom fun _ => s.done

/-- CNROM.IRQ_ACK: no-op (R217). -/
def execCnromIrqAck (s : State) : Result := s.withCnrom fun _ => s.done

end Sys2Proof.Machine
end

