-- ==== Sys2Proof/Machine/Outputs.lean ====
section
/-! DEFINITION. The mirroring resolver (spec/40_mirroring_resolver.md) and the outputs the host samples between
transactions (R103). -/

namespace Sys2Proof.Machine

/-! ## The resolver -/

/-- `resolve(mode, address)` (R120, R122-R126): the low 12 bits of the address decide. -/
def resolve (mode : Mirroring) (address : Addr) : VramOffset :=
  let a : BitVec 12 := address.extractLsb' 0 12
  match mode with
  | .horizontal => (0 : BitVec 1) ++ a.extractLsb' 11 1 ++ a.extractLsb' 0 10
  | .vertical => (0 : BitVec 1) ++ a.extractLsb' 10 1 ++ a.extractLsb' 0 10
  | .singleScreenLower => (0 : BitVec 2) ++ a.extractLsb' 0 10
  | .singleScreenUpper => (1 : BitVec 2) ++ a.extractLsb' 0 10
  | .fourScreen => a

/-- The 1KB physical VRAM bank, `resolve(mode, address)[11:10]` (R127). -/
def vramBank (mode : Mirroring) (address : Addr) : BitVec 2 := (resolve mode address).extractLsb' 10 2

/-- The spec's 3-bit code of a mode (R22). -/
def mirroringCode : Mirroring → BitVec 3
  | .horizontal => 0
  | .vertical => 1
  | .singleScreenLower => 2
  | .singleScreenUpper => 3
  | .fourScreen => 4

/-! ## Outputs -/

/-- MMC1's mode, by `m1.control[1:0]` (R185). -/
def Mmc1.mirroring (r : Mmc1) : Mirroring :=
  match r.mirror.toNat with
  | 0 => .singleScreenLower
  | 1 => .singleScreenUpper
  | 2 => .vertical
  | _ => .horizontal

/-- MMC3's mode (R245). -/
def Mmc3.mirroring (r : Mmc3) : Mirroring := if r.mirror then .horizontal else .vertical

/-- `mirroring()` (R67, R167, R185, R205, R215, R245). -/
def State.mirroring (s : State) : Mirroring :=
  match s.regs with
  | .nrom | .uxrom _ | .cnrom _ => s.cfg.mirroring
  | .mmc1 r => r.mirroring
  | .mmc3 r => r.mirroring

/-- `irq_pending()` (R262). -/
def State.irqPending (s : State) : Bool :=
  match s.regs with
  | .mmc3 r => r.irqPending
  | _ => false

/-- `mapper_number()` (R21). -/
def State.mapperNumber (s : State) : BitVec 12 := s.cfg.mapper

/-- `submapper()` (R21, R153). -/
def State.submapper (s : State) : BitVec 4 := s.cfg.submapper

/-- The `sram()` view exists: a battery and PRG-RAM (R78). -/
def State.hasSram (s : State) : Bool := s.cfg.battery && hasPrgRam s.variant s.params

/-- `sram()`: the 8192 bytes of PRG-RAM, or none (R78). -/
def State.sram (s : State) : Option (List Byte) :=
  if s.hasSram then some (Memory.toBytes s.prgRam Config.prgRamSize) else none

/-- The mutable `sram()` view used to load saved contents: only where the view exists, with 8192 bytes, and only
before the first transaction (R78, R284; log entry 7). None where the host may not use it. -/
def State.loadSram (s : State) (bytes : List Byte) : Option State :=
  if s.hasSram && !s.started && bytes.length == Config.prgRamSize then
    some (s.setPrgRam (Memory.ofBytes bytes))
  else none

end Sys2Proof.Machine
end

