-- ==== Sys2Proof/Machine/Common.lean ====
section
/-! DEFINITION. The operations every variant has: the unmapped addresses (R61), NT_MAP (R121) and the reserved
op (R98). -/

namespace Sys2Proof.Machine

/-- ALL.CPU_UNMAPPED_READ (R61). -/
def execAllCpuUnmappedRead (_a : Addr) (s : State) : Result := s.answerOpenBus

/-- ALL.CPU_UNMAPPED_WRITE (R61). -/
def execAllCpuUnmappedWrite (_a : Addr) (_d : Byte) (s : State) : Result := s.done

/-- ALL.PPU_UNMAPPED_READ (R61). -/
def execAllPpuUnmappedRead (_a : Addr) (s : State) : Result := s.answerOpenBus

/-- ALL.PPU_UNMAPPED_WRITE (R61). -/
def execAllPpuUnmappedWrite (_a : Addr) (_d : Byte) (s : State) : Result := s.done

/-- ALL.NT_MAP: `resolve(mirroring(), A)` (R121). -/
def execAllNtMap (a : BitVec 12) (s : State) : Result :=
  .next (s.setReply (.offset (resolve s.mirroring (a.setWidth 16))))

/-- ALL.RESERVED: no transaction, refused (R98). -/
def execAllReserved (_s : State) : Result := .refused .reservedOp

end Sys2Proof.Machine
end

