-- ==== Sys2Proof/Machine/Flags.lean ====
section
/-! DEFINITION. The Boolean state bits and the counters that drive them (R46): the MMC1 serial accumulator and
the MMC3 scanline counter with its interrupt flags. The block has no arithmetic flags. -/

namespace Sys2Proof.Machine

/-! ## The MMC1 serial protocol -/

/-- `acc` of the serial step: `D[0]` placed at bit `m1.count` of the accumulator (R173). -/
def Mmc1.accumulate (r : Mmc1) (d : Byte) : BitVec 5 :=
  r.shift ||| ((d.extractLsb' 0 1).setWidth 5 <<< r.count.toNat)

/-- The serial step (R173): the fifth write completes the sequence with the calling rule's target write. -/
def Mmc1.serialStep (r : Mmc1) (d : Byte) (complete : Mmc1 → BitVec 5 → Mmc1) : Mmc1 :=
  if r.count = 4 then { complete r (r.accumulate d) with shift := 0, count := 0 }
  else { r with shift := r.accumulate d, count := r.count + 1 }

/-- The reset write: the sequence is dropped and PRG mode 3 forced (R172). -/
def Mmc1.resetWrite (r : Mmc1) : Mmc1 :=
  { r with shift := 0, count := 0, control := r.control ||| 0x0C }

/-! ## The MMC3 scanline counter -/

/-- The reload or decrement of an A12 rise (R232). -/
def Mmc3.countEdge (r : Mmc3) : Mmc3 :=
  if r.irqCounter = 0 ∨ r.irqReload = true then { r with irqCounter := r.irqLatch, irqReload := false }
  else { r with irqCounter := r.irqCounter - 1 }

/-- The zero test of an A12 rise, on the counter as it now stands (R232). -/
def Mmc3.zeroTest (r : Mmc3) : Mmc3 :=
  if r.irqCounter = 0 ∧ r.irqEnable = true then r.raiseIrq else r

/-- One rise of PPU address line 12 (R232). -/
def Mmc3.a12Rise (r : Mmc3) : Mmc3 := r.countEdge.zeroTest

/-- Bank select: `sel`, `prg_mode` and `chr_mode` from `D[2:0]`, `D[6]`, `D[7]` (R35, R222). -/
def Mmc3.select (r : Mmc3) (d : Byte) : Mmc3 :=
  { r with sel := d.extractLsb' 0 3, prgMode := d.getLsbD 6, chrMode := d.getLsbD 7 }

/-- Bank data into the register that `sel` names (R36, R223). -/
def Mmc3.bankData (r : Mmc3) (d : Byte) : Mmc3 :=
  { r with r := r.r.set r.sel.toNat d r.sel.isLt }

/-- The mirroring register from `D[0]` (R37, R224). -/
def Mmc3.setMirror (r : Mmc3) (d : Byte) : Mmc3 := { r with mirror := d.getLsbD 0 }

/-- The PRG-RAM protect register from `D[7]` and `D[6]` (R38, R225). -/
def Mmc3.setProtect (r : Mmc3) (d : Byte) : Mmc3 :=
  { r with ramEnable := d.getLsbD 7, ramProtect := d.getLsbD 6 }

/-- The reload value (R39, R226). -/
def Mmc3.setLatch (r : Mmc3) (d : Byte) : Mmc3 := { r with irqLatch := d }

/-- The reload-pending flag (R41, R227). -/
def Mmc3.requestReload (r : Mmc3) : Mmc3 := { r with irqReload := true }

/-- Interrupts disabled and the request cleared (R42, R228). -/
def Mmc3.disableIrq (r : Mmc3) : Mmc3 := { r.clearIrq with irqEnable := false }

/-- Interrupts enabled (R42, R229). -/
def Mmc3.enableIrq (r : Mmc3) : Mmc3 := { r with irqEnable := true }

end Sys2Proof.Machine
end

