-- ==== Sys2Proof/Machine/Mmc1.lean ====
section
/-! DEFINITION. MMC1, mapper 1 (spec/43_mmc1.md). -/

namespace Sys2Proof.Machine

/-- A serial write with the target write `complete` (R173). -/
def State.mmc1Serial (s : State) (d : Byte) (complete : Mmc1 → BitVec 5 → Mmc1) : Result :=
  s.withMmc1 fun r => (s.setRegs (.mmc1 (r.serialStep d complete))).done

/-- MMC1.PRG_RAM_READ (R180). -/
def execMmc1PrgRamRead (a : Addr) (s : State) : Result :=
  s.withMmc1 fun r => if r.ramDisable then s.answerOpenBus else s.readPrgRam (ramOffset a)

/-- MMC1.PRG_RAM_WRITE (R181). -/
def execMmc1PrgRamWrite (a : Addr) (d : Byte) (s : State) : Result :=
  s.withMmc1 fun r => if r.ramDisable then s.done else s.writePrgRam (ramOffset a) d

/-- MMC1.PRG_ROM_READ (R182). -/
def execMmc1PrgRomRead (a : Addr) (s : State) : Result :=
  s.withMmc1 fun r => s.readPrgRom (r.prgOffset s.cfg a)

/-- MMC1.RESET (R172). -/
def execMmc1Reset (_a : Addr) (_d : Byte) (s : State) : Result :=
  s.withMmc1 fun r => (s.setRegs (.mmc1 r.resetWrite)).done

/-- MMC1.SERIAL_CONTROL (R174). -/
def execMmc1SerialControl (_a : Addr) (d : Byte) (s : State) : Result :=
  s.mmc1Serial d fun r acc => { r with control := acc }

/-- MMC1.SERIAL_CHR0 (R175). -/
def execMmc1SerialChr0 (_a : Addr) (d : Byte) (s : State) : Result :=
  s.mmc1Serial d fun r acc => { r with chr0 := acc }

/-- MMC1.SERIAL_CHR1 (R176). -/
def execMmc1SerialChr1 (_a : Addr) (d : Byte) (s : State) : Result :=
  s.mmc1Serial d fun r acc => { r with chr1 := acc }

/-- MMC1.SERIAL_PRG (R177). -/
def execMmc1SerialPrg (_a : Addr) (d : Byte) (s : State) : Result :=
  s.mmc1Serial d fun r acc => { r with prg := acc }

/-- MMC1.CHR_READ (R183). -/
def execMmc1ChrRead (a : Addr) (s : State) : Result :=
  s.withMmc1 fun r => s.readChr (r.chrOffset s.cfg a)

/-- MMC1.CHR_WRITE (R184). -/
def execMmc1ChrWrite (a : Addr) (d : Byte) (s : State) : Result :=
  s.withMmc1 fun r => s.writeChr (r.chrOffset s.cfg a) d

/-- MMC1.A12_RISE: no-op (R186). -/
def execMmc1A12Rise (s : State) : Result := s.withMmc1 fun _ => s.done

/-- MMC1.IRQ_ACK: no-op (R187). -/
def execMmc1IrqAck (s : State) : Result := s.withMmc1 fun _ => s.done

end Sys2Proof.Machine
end

