-- ==== Sys2Proof/Machine/Mmc3.lean ====
section
/-! DEFINITION. MMC3, mapper 4 (spec/46_mmc3.md). -/

namespace Sys2Proof.Machine

/-- A transaction that only changes MMC3's registers. -/
def State.mmc3Update (s : State) (f : Mmc3 → Mmc3) : Result :=
  s.withMmc3 fun r => (s.setRegs (.mmc3 (f r))).done

/-- MMC3.PRG_RAM_READ (R240). -/
def execMmc3PrgRamRead (a : Addr) (s : State) : Result :=
  s.withMmc3 fun r => if r.ramEnable then s.readPrgRam (ramOffset a) else s.answerOpenBus

/-- MMC3.PRG_RAM_WRITE (R241). -/
def execMmc3PrgRamWrite (a : Addr) (d : Byte) (s : State) : Result :=
  s.withMmc3 fun r => if r.ramEnable && !r.ramProtect then s.writePrgRam (ramOffset a) d else s.done

/-- MMC3.PRG_ROM_READ (R242). -/
def execMmc3PrgRomRead (a : Addr) (s : State) : Result :=
  s.withMmc3 fun r => s.readPrgRom (r.prgOffset s.cfg a)

/-- MMC3.BANK_SELECT (R222). -/
def execMmc3BankSelect (_a : Addr) (d : Byte) (s : State) : Result := s.mmc3Update fun r => r.select d

/-- MMC3.BANK_DATA (R223). -/
def execMmc3BankData (_a : Addr) (d : Byte) (s : State) : Result := s.mmc3Update fun r => r.bankData d

/-- MMC3.MIRRORING (R224). -/
def execMmc3Mirroring (_a : Addr) (d : Byte) (s : State) : Result := s.mmc3Update fun r => r.setMirror d

/-- MMC3.PRG_RAM_PROTECT (R225). -/
def execMmc3PrgRamProtect (_a : Addr) (d : Byte) (s : State) : Result := s.mmc3Update fun r => r.setProtect d

/-- MMC3.IRQ_LATCH (R226). -/
def execMmc3IrqLatch (_a : Addr) (d : Byte) (s : State) : Result := s.mmc3Update fun r => r.setLatch d

/-- MMC3.IRQ_RELOAD (R227). -/
def execMmc3IrqReload (_a : Addr) (_d : Byte) (s : State) : Result := s.mmc3Update fun r => r.requestReload

/-- MMC3.IRQ_DISABLE (R228). -/
def execMmc3IrqDisable (_a : Addr) (_d : Byte) (s : State) : Result := s.mmc3Update fun r => r.disableIrq

/-- MMC3.IRQ_ENABLE (R229). -/
def execMmc3IrqEnable (_a : Addr) (_d : Byte) (s : State) : Result := s.mmc3Update fun r => r.enableIrq

/-- MMC3.CHR_READ (R243). -/
def execMmc3ChrRead (a : Addr) (s : State) : Result :=
  s.withMmc3 fun r => s.readChr (r.chrOffset s.cfg a)

/-- MMC3.CHR_WRITE (R244). -/
def execMmc3ChrWrite (a : Addr) (d : Byte) (s : State) : Result :=
  s.withMmc3 fun r => s.writeChr (r.chrOffset s.cfg a) d

/-- MMC3.A12_RISE (R232). -/
def execMmc3A12Rise (s : State) : Result := s.mmc3Update fun r => r.a12Rise

/-- MMC3.IRQ_ACK (R235). -/
def execMmc3IrqAck (s : State) : Result := s.mmc3Update fun r => r.clearIrq

end Sys2Proof.Machine
end

