-- ==== Sys2Proof/Machine/Nrom.lean ====
section
/-! DEFINITION. NROM, mapper 0 (spec/42_nrom.md). -/

namespace Sys2Proof.Machine

/-- NROM.PRG_RAM_READ (R161). -/
def execNromPrgRamRead (a : Addr) (s : State) : Result :=
  s.withNrom fun _ => if s.params.nromPrgRam then s.readPrgRam (ramOffset a) else s.answerOpenBus

/-- NROM.PRG_RAM_WRITE (R162). -/
def execNromPrgRamWrite (a : Addr) (d : Byte) (s : State) : Result :=
  s.withNrom fun _ => if s.params.nromPrgRam then s.writePrgRam (ramOffset a) d else s.done

/-- NROM.PRG_ROM_READ (R163). -/
def execNromPrgRomRead (a : Addr) (s : State) : Result :=
  s.withNrom fun _ => s.readPrgRom (s.cfg.fixedPrgOffset a)

/-- NROM.PRG_ROM_WRITE: no effect (R164). -/
def execNromPrgRomWrite (_a : Addr) (_d : Byte) (s : State) : Result :=
  s.withNrom fun _ => s.done

/-- NROM.CHR_READ (R165). -/
def execNromChrRead (a : Addr) (s : State) : Result :=
  s.withNrom fun _ => s.readChr (fixedChrOffset a)

/-- NROM.CHR_WRITE (R166). -/
def execNromChrWrite (a : Addr) (d : Byte) (s : State) : Result :=
  s.withNrom fun _ => s.writeChr (fixedChrOffset a) d

/-- NROM.A12_RISE: no-op (R168). -/
def execNromA12Rise (s : State) : Result := s.withNrom fun _ => s.done

/-- NROM.IRQ_ACK: no-op (R169). -/
def execNromIrqAck (s : State) : Result := s.withNrom fun _ => s.done

end Sys2Proof.Machine
end

