-- ==== Sys2Proof/Machine/Uxrom.lean ====
section
/-! DEFINITION. UxROM, mapper 2 (spec/44_uxrom.md). -/

namespace Sys2Proof.Machine

/-- `s.ux.bank <- D mod n_prg16` (R201). -/
def State.selectUxromBank (s : State) (d : Byte) : Result :=
  if s.cfg.nPrg16 = 0 then .fault .noBanks
  else (s.setRegs (.uxrom { bank := BitVec.ofNat 8 (norm d.toNat s.cfg.nPrg16) })).done

/-- UXROM.WRAM_READ (R204). -/
def execUxromWramRead (_a : Addr) (s : State) : Result := s.withUxrom fun _ => s.answerOpenBus

/-- UXROM.WRAM_WRITE: no effect (R208). -/
def execUxromWramWrite (_a : Addr) (_d : Byte) (s : State) : Result := s.withUxrom fun _ => s.done

/-- UXROM.PRG_ROM_READ (R200). -/
def execUxromPrgRomRead (a : Addr) (s : State) : Result :=
  s.withUxrom fun r => s.readPrgRom (r.prgOffset s.cfg a)

/-- UXROM.BANK_SELECT (R201): with bus conflicts on, a value other than the PRG-ROM byte at `A` has no effect. -/
def execUxromBankSelect (a : Addr) (d : Byte) (s : State) : Result :=
  s.withUxrom fun r =>
    if s.params.uxromBusConflicts then
      match s.prgByte? (r.prgOffset s.cfg a) with
      | some b => if d = b then s.selectUxromBank d else s.done
      | none => .fault .prgRomOutOfRange
    else s.selectUxromBank d

/-- UXROM.CHR_READ (R202). -/
def execUxromChrRead (a : Addr) (s : State) : Result :=
  s.withUxrom fun _ => s.readChr (fixedChrOffset a)

/-- UXROM.CHR_WRITE (R203). -/
def execUxromChrWrite (a : Addr) (d : Byte) (s : State) : Result :=
  s.withUxrom fun _ => s.writeChr (fixedChrOffset a) d

/-- UXROM.A12_RISE: no-op (R206). -/
def execUxromA12Rise (s : State) : Result := s.withUxrom fun _ => s.done

/-- UXROM.IRQ_ACK: no-op (R207). -/
def execUxromIrqAck (s : State) : Result := s.withUxrom fun _ => s.done

end Sys2Proof.Machine
end

