-- ==== Sys2Proof/Machine/Dispatch.lean ====
section
/-! DEFINITION. One arm per transaction, each one direct call of its meaning. -/

namespace Sys2Proof.Machine

/-- What a transaction does. -/
def exec (i : Instr) (s : State) : Host.Outcome State Fault Refusal :=
  match i with
  | .allCpuUnmappedRead a => Sys2Proof.Machine.execAllCpuUnmappedRead a s
  | .allCpuUnmappedWrite a d => Sys2Proof.Machine.execAllCpuUnmappedWrite a d s
  | .allPpuUnmappedRead a => Sys2Proof.Machine.execAllPpuUnmappedRead a s
  | .allPpuUnmappedWrite a d => Sys2Proof.Machine.execAllPpuUnmappedWrite a d s
  | .allNtMap a => Sys2Proof.Machine.execAllNtMap a s
  | .allReserved => Sys2Proof.Machine.execAllReserved s
  | .nromPrgRamRead a => Sys2Proof.Machine.execNromPrgRamRead a s
  | .nromPrgRamWrite a d => Sys2Proof.Machine.execNromPrgRamWrite a d s
  | .nromPrgRomRead a => Sys2Proof.Machine.execNromPrgRomRead a s
  | .nromPrgRomWrite a d => Sys2Proof.Machine.execNromPrgRomWrite a d s
  | .nromChrRead a => Sys2Proof.Machine.execNromChrRead a s
  | .nromChrWrite a d => Sys2Proof.Machine.execNromChrWrite a d s
  | .nromA12Rise => Sys2Proof.Machine.execNromA12Rise s
  | .nromIrqAck => Sys2Proof.Machine.execNromIrqAck s
  | .mmc1PrgRamRead a => Sys2Proof.Machine.execMmc1PrgRamRead a s
  | .mmc1PrgRamWrite a d => Sys2Proof.Machine.execMmc1PrgRamWrite a d s
  | .mmc1PrgRomRead a => Sys2Proof.Machine.execMmc1PrgRomRead a s
  | .mmc1Reset a d => Sys2Proof.Machine.execMmc1Reset a d s
  | .mmc1SerialControl a d => Sys2Proof.Machine.execMmc1SerialControl a d s
  | .mmc1SerialChr0 a d => Sys2Proof.Machine.execMmc1SerialChr0 a d s
  | .mmc1SerialChr1 a d => Sys2Proof.Machine.execMmc1SerialChr1 a d s
  | .mmc1SerialPrg a d => Sys2Proof.Machine.execMmc1SerialPrg a d s
  | .mmc1ChrRead a => Sys2Proof.Machine.execMmc1ChrRead a s
  | .mmc1ChrWrite a d => Sys2Proof.Machine.execMmc1ChrWrite a d s
  | .mmc1A12Rise => Sys2Proof.Machine.execMmc1A12Rise s
  | .mmc1IrqAck => Sys2Proof.Machine.execMmc1IrqAck s
  | .uxromWramRead a => Sys2Proof.Machine.execUxromWramRead a s
  | .uxromWramWrite a d => Sys2Proof.Machine.execUxromWramWrite a d s
  | .uxromPrgRomRead a => Sys2Proof.Machine.execUxromPrgRomRead a s
  | .uxromBankSelect a d => Sys2Proof.Machine.execUxromBankSelect a d s
  | .uxromChrRead a => Sys2Proof.Machine.execUxromChrRead a s
  | .uxromChrWrite a d => Sys2Proof.Machine.execUxromChrWrite a d s
  | .uxromA12Rise => Sys2Proof.Machine.execUxromA12Rise s
  | .uxromIrqAck => Sys2Proof.Machine.execUxromIrqAck s
  | .cnromWramRead a => Sys2Proof.Machine.execCnromWramRead a s
  | .cnromWramWrite a d => Sys2Proof.Machine.execCnromWramWrite a d s
  | .cnromPrgRomRead a => Sys2Proof.Machine.execCnromPrgRomRead a s
  | .cnromChrBankSelect a d => Sys2Proof.Machine.execCnromChrBankSelect a d s
  | .cnromChrRead a => Sys2Proof.Machine.execCnromChrRead a s
  | .cnromChrWrite a d => Sys2Proof.Machine.execCnromChrWrite a d s
  | .cnromA12Rise => Sys2Proof.Machine.execCnromA12Rise s
  | .cnromIrqAck => Sys2Proof.Machine.execCnromIrqAck s
  | .mmc3PrgRamRead a => Sys2Proof.Machine.execMmc3PrgRamRead a s
  | .mmc3PrgRamWrite a d => Sys2Proof.Machine.execMmc3PrgRamWrite a d s
  | .mmc3PrgRomRead a => Sys2Proof.Machine.execMmc3PrgRomRead a s
  | .mmc3BankSelect a d => Sys2Proof.Machine.execMmc3BankSelect a d s
  | .mmc3BankData a d => Sys2Proof.Machine.execMmc3BankData a d s
  | .mmc3Mirroring a d => Sys2Proof.Machine.execMmc3Mirroring a d s
  | .mmc3PrgRamProtect a d => Sys2Proof.Machine.execMmc3PrgRamProtect a d s
  | .mmc3IrqLatch a d => Sys2Proof.Machine.execMmc3IrqLatch a d s
  | .mmc3IrqReload a d => Sys2Proof.Machine.execMmc3IrqReload a d s
  | .mmc3IrqDisable a d => Sys2Proof.Machine.execMmc3IrqDisable a d s
  | .mmc3IrqEnable a d => Sys2Proof.Machine.execMmc3IrqEnable a d s
  | .mmc3ChrRead a => Sys2Proof.Machine.execMmc3ChrRead a s
  | .mmc3ChrWrite a d => Sys2Proof.Machine.execMmc3ChrWrite a d s
  | .mmc3A12Rise => Sys2Proof.Machine.execMmc3A12Rise s
  | .mmc3IrqAck => Sys2Proof.Machine.execMmc3IrqAck s

end Sys2Proof.Machine
end

