-- ==== Sys2Proof/Machine/Step.lean ====
section
/-! DEFINITION. One step: the block takes the oldest transaction the host has issued (R13, R45, R74). -/

namespace Sys2Proof.Machine

/-- One step. With no transaction waiting the passive block does nothing (log entry 5). -/
def step (s : State) : Host.Outcome State Fault Refusal :=
  match s.fetch with
  | none => .next s
  | some (w, t) => exec (decode s.variant w) t

/-- The state with the transaction word `w` at the head of the queue `step` takes from. A number that is no
transaction word (R90) cannot be issued and changes nothing. -/
def State.withFetchWord (s : State) (_nbits w : Nat) : State :=
  if w < 2 ^ 27 then { s with inputs := BitVec.ofNat 27 w :: s.inputs } else s

end Sys2Proof.Machine
end

