-- ==== Sys2Proof/Machine/Cartridge.lean ====
section
/-! DEFINITION. Construction of the block from a cartridge image (spec/41_configuration.md): header decoding, the
factory and the configuration check. Construction-time operations, not transactions. -/

namespace Sys2Proof.Machine

/-- Why parsing fails (R141). `io` is raised only by the collaborator that reads files, never by `parse`. -/
inductive RomError
  | invalidMagic | unsupportedFormat | sizeMismatch | io
  deriving DecidableEq, Repr

/-- Why the factory fails (R150). -/
inductive MapperError
  | unsupportedMapper (number : BitVec 12)
  deriving DecidableEq, Repr

/-- The spec's code of a parse error (R261). -/
def romErrorCode : RomError → Nat
  | .invalidMagic => 1
  | .unsupportedFormat => 2
  | .sizeMismatch => 3
  | .io => 4

/-- The spec's code of a factory error (R261). -/
def mapperErrorCode : MapperError → Nat
  | .unsupportedMapper _ => 5

/-- A parsed ROM image: the header's fields and the PRG and CHR byte buffers; an empty CHR buffer means CHR-RAM
(R130, R140). -/
structure RomImage where
  mapper : BitVec 12
  submapper : BitVec 4
  mirroring : Mirroring
  battery : Bool
  fourScreen : Bool
  trainer : Option (List Byte)
  prg : List Byte
  chr : List Byte
  deriving DecidableEq, Repr

/-! ## Header decoding (field positions from general knowledge, log entry 16) -/

/-- Byte `i` of the image. -/
def imageByte (image : List Byte) (i : Nat) : Byte := image.getD i 0

/-- The magic "NES" 0x1A (R131). -/
def magic : List Byte := [0x4E, 0x45, 0x53, 0x1A]

/-- Byte 7 bits 3:2 (R132). -/
def formatBits (image : List Byte) : BitVec 2 := (imageByte image 7).extractLsb' 2 2

/-- The extended format (R132). -/
def isExtended (image : List Byte) : Bool := formatBits image == 2

/-- The mapper number (R133, R134). -/
def headerMapper (image : List Byte) : BitVec 12 :=
  let high : BitVec 4 := if isExtended image then (imageByte image 8).extractLsb' 0 4 else 0
  high ++ (imageByte image 7).extractLsb' 4 4 ++ (imageByte image 6).extractLsb' 4 4

/-- The submapper number (R133, R134). -/
def headerSubmapper (image : List Byte) : BitVec 4 :=
  if isExtended image then (imageByte image 8).extractLsb' 4 4 else 0

/-- `cfg.four_screen` (R133, R137). -/
def headerFourScreen (image : List Byte) : Bool := (imageByte image 6).getLsbD 3

/-- `cfg.battery` (R133). -/
def headerBattery (image : List Byte) : Bool := (imageByte image 6).getLsbD 1

/-- The trainer flag (R133, R138). -/
def headerTrainer (image : List Byte) : Bool := (imageByte image 6).getLsbD 2

/-- `cfg.mirroring` (R137). -/
def headerMirroring (image : List Byte) : Mirroring :=
  if headerFourScreen image then .fourScreen
  else if (imageByte image 6).getLsbD 0 then .vertical else .horizontal

/-- An exponent-multiplier size, in whole units (R136). -/
def exponentSize (b : Byte) (unit : Nat) : Nat :=
  (1 <<< (b.extractLsb' 2 6).toNat) * (2 * (b.extractLsb' 0 2).toNat + 1) / unit * unit

/-- A region's size: from the size byte `b`, and in the extended format from the high nibble too (R133, R135,
R136). -/
def regionSize (extended : Bool) (high : BitVec 4) (b : Byte) (unit : Nat) : Nat :=
  if extended then
    if high = 0xF then exponentSize b unit else (high ++ b).toNat * unit
  else b.toNat * unit

/-- The PRG size `P` in bytes. -/
def headerPrgSize (image : List Byte) : Nat :=
  regionSize (isExtended image) ((imageByte image 9).extractLsb' 0 4) (imageByte image 4) 16384

/-- The CHR-ROM size `C` in bytes, 0 for CHR-RAM. -/
def headerChrSize (image : List Byte) : Nat :=
  regionSize (isExtended image) ((imageByte image 9).extractLsb' 4 4) (imageByte image 5) 8192

/-- The trainer's length `t` (R139). -/
def trainerLength (image : List Byte) : Nat := if headerTrainer image then Config.trainerSize else 0

/-- The length the header declares (R139). -/
def declaredLength (image : List Byte) : Nat :=
  Config.headerSize + trainerLength image + headerPrgSize image + headerChrSize image

/-- The parsed image, once every check has passed (R133-R140). -/
def parseBody (image : List Byte) : RomImage :=
  let body := image.drop Config.headerSize
  let afterTrainer := body.drop (trainerLength image)
  { mapper := headerMapper image, submapper := headerSubmapper image, mirroring := headerMirroring image,
    battery := headerBattery image, fourScreen := headerFourScreen image,
    trainer := if headerTrainer image then some (body.take Config.trainerSize) else none,
    prg := afterTrainer.take (headerPrgSize image),
    chr := (afterTrainer.drop (headerPrgSize image)).take (headerChrSize image) }

/-- Parsing, the checks in the order of R142. -/
def parse (image : List Byte) : Except RomError RomImage :=
  if image.length < 4 ∨ image.take 4 ≠ magic then .error .invalidMagic
  else if image.length < Config.headerSize then .error .sizeMismatch
  else if formatBits image ≠ 0 ∧ formatBits image ≠ 2 then .error .unsupportedFormat
  else if image.length ≠ declaredLength image then .error .sizeMismatch
  else .ok (parseBody image)

/-! ## The factory -/

/-- The factory's table (R150). -/
def variantOf (mapper : BitVec 12) : Option Variant :=
  match mapper.toNat with
  | 0 => some .nrom
  | 1 => some .mmc1
  | 2 => some .uxrom
  | 3 => some .cnrom
  | 4 => some .mmc3
  | _ => none

/-- The configuration record of a parsed image (R130). -/
def RomImage.cfg (rom : RomImage) : Cfg :=
  { mapper := rom.mapper, submapper := rom.submapper, prgLen := rom.prg.length,
    chrLen := if rom.chr.isEmpty then Config.chrRamSize else rom.chr.length,
    chrIsRam := rom.chr.isEmpty, mirroring := rom.mirroring, battery := rom.battery,
    fourScreen := rom.fourScreen, trainer := rom.trainer }

/-- `n` is a positive multiple of `m`. -/
def positiveMultiple (m n : Nat) : Bool := decide (0 < n) && n % m == 0

/-- The configuration check (R152). -/
def configOk (v : Variant) (c : Cfg) : Bool :=
  match v with
  | .nrom => (c.prgLen == 16384 || c.prgLen == 32768) && c.chrLen == 8192
  | .mmc1 => positiveMultiple 16384 c.prgLen && positiveMultiple 8192 c.chrLen
  | .uxrom => positiveMultiple 16384 c.prgLen && c.chrLen == 8192
  | .cnrom => (c.prgLen == 16384 || c.prgLen == 32768) && positiveMultiple 8192 c.chrLen
  | .mmc3 => positiveMultiple 8192 c.prgLen && positiveMultiple 1024 c.chrLen

/-- A block with its values after construction (R24, R25, R48, R151). `prgRamInit` and `chrRamInit` are the
8192 bytes of PRG_RAM_INIT and CHR_RAM_INIT; a shorter list stands for one filled up with `Config.unlistedByte`. -/
def construct (v : Variant) (c : Cfg) (p : Params) (prgRamInit chrRamInit prg chr : List Byte) : State :=
  { cfg := c, params := p, prgRom := Memory.ofBytes prg,
    chr := Memory.ofBytes (if c.chrIsRam then chrRamInit.take Config.chrRamSize else chr),
    prgRam := if hasPrgRam v p then Memory.ofBytes (prgRamInit.take Config.prgRamSize) else [],
    regs := regsReset c.mirroring v, inputs := [], reply := .nothing, started := false }

/-- What the factory makes of an image. -/
inductive Created
  /-- The block. -/
  | block (s : State)
  /-- No variant for the mapper number (R150). -/
  | error (e : MapperError)
  /-- The configuration check fails: no block is built and no claim made (R152). -/
  | refused
  deriving DecidableEq, Repr

/-- `create(image)` (R150-R152). -/
def create (p : Params) (prgRamInit chrRamInit : List Byte) (rom : RomImage) : Created :=
  match variantOf rom.mapper with
  | none => .error (.unsupportedMapper rom.mapper)
  | some v =>
    if configOk v rom.cfg then .block (construct v rom.cfg p prgRamInit chrRamInit rom.prg rom.chr)
    else .refused

/-- From the image's bytes to the block. -/
def load (p : Params) (prgRamInit chrRamInit image : List Byte) : Except RomError Created :=
  match parse image with
  | .ok rom => .ok (create p prgRamInit chrRamInit rom)
  | .error e => .error e

end Sys2Proof.Machine
end

