-- ==== Sys2Proof/Safety.lean ====
section
/-! DEFINITION. What counts as a block in good order: the invariant of every constructed block, in the terms the
statements use. -/

namespace Sys2Proof.Machine

/-- The registers are ones the block can hold: MMC1's counter runs from 0 to 4 and its accumulator holds no bit not
yet written (R29, R173); UxROM's and CNROM's banks are already reduced (R33, R34); MMC3's A12 sample is 0 (R44). -/
def regsInv (c : Cfg) : Regs → Bool
  | .nrom => true
  | .mmc1 r => decide (r.count.toNat ≤ 4) && decide (r.shift.toNat < 2 ^ r.count.toNat)
  | .uxrom r => decide (r.bank.toNat < c.nPrg16)
  | .cnrom r => decide (r.chrBank.toNat < c.nChr8)
  | .mmc3 r => !r.prevA12

/-- The arrays are canonical and hold nothing past their ends (R23-R25); an absent PRG-RAM holds nothing. -/
def storageInv (s : State) : Bool :=
  s.prgRom.wf && s.prgRom.below s.cfg.prgLen && s.chr.wf && s.chr.below s.cfg.chrLen &&
  s.prgRam.wf && s.prgRam.below (if hasPrgRam s.variant s.params then Config.prgRamSize else 0)

/-- The configuration is one the factory builds a block from: the variant is the mapper number's (R150), the check of
R152 holds, and CHR-RAM is 8192 bytes (R24). -/
def configInv (s : State) : Bool :=
  variantOf s.cfg.mapper == some s.variant && configOk s.variant s.cfg &&
  (!s.cfg.chrIsRam || s.cfg.chrLen == Config.chrRamSize)

/-- The invariant of a constructed block. -/
def State.inv (s : State) : Bool := configInv s && storageInv s && regsInv s.cfg s.regs

/-- The invariant as a proposition. -/
abbrev State.Inv (s : State) : Prop := s.inv = true

/-- One operation `k` times over, stopping where it stops. -/
def execTimes : Nat → Instr → State → Result
  | 0, _, s => .next s
  | k + 1, i, s =>
    match exec i s with
    | .next t => execTimes k i t
    | .fault f => .fault f
    | .refused r => .refused r

/-- From `s` to `t` nothing changes but PRG-RAM and the answer, which is none; byte `o` of PRG-RAM becomes `d` when the
gate `c` is open, and every other byte reads as before. -/
def storesPrgRam (s t : State) (c : Prop) (o : Nat) (d : Byte) : Prop :=
  t = { s with reply := .nothing, prgRam := t.prgRam } ∧
  ∀ p, (c ∧ p = o → Memory.read t.prgRam p = d) ∧
    (¬ (c ∧ p = o) → Memory.read t.prgRam p = Memory.read s.prgRam p)

/-- From `s` to `t` nothing changes but CHR and the answer, which is none; byte `o` of CHR becomes `d` when CHR is RAM
(R65), and every other byte reads as before. -/
def storesChr (s t : State) (o : Nat) (d : Byte) : Prop :=
  t = { s with reply := .nothing, chr := t.chr } ∧
  ∀ p, (s.cfg.chrIsRam = true ∧ p = o → Memory.read t.chr p = d) ∧
    (¬ (s.cfg.chrIsRam = true ∧ p = o) → Memory.read t.chr p = Memory.read s.chr p)

/-- `k` steps, stopping where one stops. -/
def stepTimes (k : Nat) (s : State) : Result := Sys2Proof.core.run k s

/-- The operation only asks: a CPU or PPU read or a nametable resolve (R70). -/
def isRead : Instr → Bool
  | .allCpuUnmappedRead _ => true
  | .allCpuUnmappedWrite _ _ => false
  | .allPpuUnmappedRead _ => true
  | .allPpuUnmappedWrite _ _ => false
  | .allNtMap _ => true
  | .allReserved => false
  | .nromPrgRamRead _ => true
  | .nromPrgRamWrite _ _ => false
  | .nromPrgRomRead _ => true
  | .nromPrgRomWrite _ _ => false
  | .nromChrRead _ => true
  | .nromChrWrite _ _ => false
  | .nromA12Rise => false
  | .nromIrqAck => false
  | .mmc1PrgRamRead _ => true
  | .mmc1PrgRamWrite _ _ => false
  | .mmc1PrgRomRead _ => true
  | .mmc1Reset _ _ => false
  | .mmc1SerialControl _ _ => false
  | .mmc1SerialChr0 _ _ => false
  | .mmc1SerialChr1 _ _ => false
  | .mmc1SerialPrg _ _ => false
  | .mmc1ChrRead _ => true
  | .mmc1ChrWrite _ _ => false
  | .mmc1A12Rise => false
  | .mmc1IrqAck => false
  | .uxromWramRead _ => true
  | .uxromWramWrite _ _ => false
  | .uxromPrgRomRead _ => true
  | .uxromBankSelect _ _ => false
  | .uxromChrRead _ => true
  | .uxromChrWrite _ _ => false
  | .uxromA12Rise => false
  | .uxromIrqAck => false
  | .cnromWramRead _ => true
  | .cnromWramWrite _ _ => false
  | .cnromPrgRomRead _ => true
  | .cnromChrBankSelect _ _ => false
  | .cnromChrRead _ => true
  | .cnromChrWrite _ _ => false
  | .cnromA12Rise => false
  | .cnromIrqAck => false
  | .mmc3PrgRamRead _ => true
  | .mmc3PrgRamWrite _ _ => false
  | .mmc3PrgRomRead _ => true
  | .mmc3BankSelect _ _ => false
  | .mmc3BankData _ _ => false
  | .mmc3Mirroring _ _ => false
  | .mmc3PrgRamProtect _ _ => false
  | .mmc3IrqLatch _ _ => false
  | .mmc3IrqReload _ _ => false
  | .mmc3IrqDisable _ _ => false
  | .mmc3IrqEnable _ _ => false
  | .mmc3ChrRead _ => true
  | .mmc3ChrWrite _ _ => false
  | .mmc3A12Rise => false
  | .mmc3IrqAck => false

end Sys2Proof.Machine
end

