-- ==== Sys2Proof/Certificates/Slice0/Obligations.lean ====
section
/-! DEFINITION. The statements for the provers. Each docstring names the rules of spec/ it formalises. A rule that
the spec tags `[decision]`, `[derived]` or `[from general knowledge]` is the spec's own inference: a statement that
rests on one says so and names the decision D<n> (spec/92_eei_decisions.md) or the log entry. -/

open Sys2Proof Sys2Proof.Machine

/-! ## Words and decoding -/

/-- Decoding the word of any well-formed transaction in a block that has it gives the transaction back, with every
operand (R90, R91, R95; the encoding is the spec's decision D1). -/
def Obligations.DecodeOfEncodeIsIdentity : Prop :=
  ∀ (v : Variant) (i : Instr), i.wellFormed = true → i.inVariant v = true → decode v (encode i) = i

/-- For every variant and every word exactly one row of the opcode table takes the word, and it is the row of the
decoded transaction (R95; decision D1). -/
def Obligations.ExactlyOneRowTakesEachWord : Prop :=
  ∀ (v : Variant) (w : TWord), ∃ r, (rowsFor v).filter (fun r => r.takes w) = [r] ∧
    r.mnemonic = (decode v w).mnemonic ∧ r.variant? = (decode v w).variant?

/-- What the decoder of a variant gives is well-formed and an operation of that variant (R95; decision D1). -/
def Obligations.DecodedTransactionIsWellFormed : Prop :=
  ∀ (v : Variant) (w : TWord), (decode v w).wellFormed = true ∧ (decode v w).inVariant v = true

/-- Words that agree on `op` and on the fields their format uses decode alike (R92; decision D1). -/
def Obligations.IgnoredFieldsDoNotChangeDecoding : Prop :=
  ∀ (v : Variant) (w w' : TWord), opField w = opField w' →
    ((opField w).toNat ≤ 3 → addrField w = addrField w') →
    ((opField w = 1 ∨ opField w = 3) → dataField w = dataField w') →
    (opField w = 6 → (addrField w).extractLsb' 0 12 = (addrField w').extractLsb' 0 12) →
    decode v w = decode v w'

/-- Encoding a decoded word gives back `op` and every field its format uses, and zeros in the ignored fields
(R91, R92, R101; decisions D1, D3). -/
def Obligations.EncodeOfDecodeKeepsUsedFields : Prop :=
  ∀ (v : Variant) (w : TWord),
    opField (encode (decode v w)) = opField w ∧
    addrField (encode (decode v w)) =
      (if (opField w).toNat ≤ 3 then addrField w
       else if opField w = 6 then ((addrField w).extractLsb' 0 12).setWidth 16 else 0) ∧
    dataField (encode (decode v w)) = (if opField w = 1 ∨ opField w = 3 then dataField w else 0)

/-- Words written out in spec/95_test_vectors.md L2-1, decoded for an MMC3 and for an MMC1 block (R90, R91;
decision D1). -/
def Obligations.WordsWrittenOutDecode : Prop :=
  decode .mmc3 0x0800000 = .mmc3PrgRomRead 0x8000 ∧ decode .mmc1 0x0800000 = .mmc1PrgRomRead 0x8000 ∧
  decode .mmc3 0x1800080 = .mmc3BankSelect 0x8000 0x80 ∧ decode .mmc1 0x1800080 = .mmc1Reset 0x8000 0x80 ∧
  decode .mmc3 0x19FFE07 = .mmc3BankSelect 0x9FFE 0x07 ∧ decode .mmc1 0x1C00001 = .mmc1SerialChr1 0xC000 0x01 ∧
  decode .nrom 0x0401600 = .allCpuUnmappedRead 0x4016 ∧ decode .uxrom 0x3200001 = .allPpuUnmappedWrite 0x2000 0x01 ∧
  decode .cnrom 0x180007F = .cnromChrBankSelect 0x8000 0x7F ∧ decode .mmc3 0x62C0500 = .allNtMap 0xC05 ∧
  decode .mmc3 0x4000000 = .mmc3A12Rise ∧ decode .mmc1 0x5000000 = .mmc1IrqAck ∧ decode .nrom 0x7000000 = .allReserved

/-! ## The step -/

/-- A step takes the oldest waiting word and runs the transaction its variant's decoder reads in it; with no word
waiting it changes nothing (R45, R74; the queue and the idle step are the model's, log entry 5). -/
def Obligations.StepRunsDecodedTransaction : Prop :=
  (∀ (s : State) (w : TWord) (ws : List TWord), s.inputs = w :: ws →
    step s = exec (decode s.variant w) { s with inputs := ws, started := true }) ∧
  (∀ s : State, s.inputs = [] → step s = .next s)

/-- A word with op 111 is refused by name, in every block (R98; decision D44). -/
def Obligations.ReservedOpIsRefused : Prop :=
  (∀ s : State, exec .allReserved s = .refused .reservedOp) ∧
  (∀ (s : State) (w : TWord) (ws : List TWord), s.inputs = w :: ws → opField w = 7 →
    step s = .refused .reservedOp)

/-- No transaction raises an exception, faults or stalls: a block that meets the invariant takes every word but op
111, which it refuses (R260; R98, decision D44, log entry 28). The last clause, that a step with no word waiting
changes nothing, is the model's choice (log entry 5). -/
def Obligations.OnlyTheReservedOpIsNotExecuted : Prop :=
  ∀ s : State, s.Inv →
    (∀ (w : TWord) (ws : List TWord), s.inputs = w :: ws → opField w ≠ 7 → ∃ t, step s = .next t) ∧
    (∀ (w : TWord) (ws : List TWord), s.inputs = w :: ws → opField w = 7 → step s = .refused .reservedOp) ∧
    (s.inputs = [] → step s = .next s)

/-- An operation of another variant, given to `exec` directly, is refused by name (the model's choice, log entry
10; the decoder never gives one, R95). -/
def Obligations.ForeignOperationIsRefused : Prop :=
  ∀ (i : Instr) (s : State) (u : Variant), i.variant? = some u → s.variant ≠ u →
    exec i s = .refused .wrongVariant

/-! ## The invariant -/

/-- The invariant holds of the block that `State.reset` is (the model's choice of block, log entry 1). -/
def Obligations.ResetMeetsInvariant : Prop := State.reset.Inv

/-- Every step keeps the invariant: the arrays stay canonical and inside their bounds, the configuration stays one
of the factory's, MMC1's counter stays within 0 to 4 with no bit beyond it accumulated, UxROM's and CNROM's banks
stay reduced, MMC3's A12 sample stays 0 (R25, R29, R33, R34, R44, R62, R152; decisions D14, D17, D20, D34, D40). -/
def Obligations.StepKeepsInvariant : Prop :=
  ∀ s t : State, s.Inv → step s = .next t → t.Inv

/-- Every block the factory builds meets the invariant (R24, R25, R48, R150-R152; decisions D8, D14, D26, D34). -/
def Obligations.CreatedBlockMeetsInvariant : Prop :=
  ∀ (p : Params) (ri ci : List Byte) (rom : RomImage) (s : State), create p ri ci rom = .block s → s.Inv

/-! ## What no transaction changes -/

/-- The configuration, PRG-ROM and, when CHR is ROM, the CHR bytes are fixed: no transaction writes them (R20). The
parameters do not change either: that OPEN_BUS and the options are constants of the block rests on R10, R26 and R48
(decision D6) and is the model's choice of a field that nothing writes (log entries 3 and 4). -/
def Obligations.NoTransactionWritesConfiguration : Prop :=
  ∀ s t : State, step s = .next t →
    t.cfg = s.cfg ∧ t.params = s.params ∧ t.prgRom = s.prgRom ∧ (s.cfg.chrIsRam = false → t.chr = s.chr)

/-- The five variants by mapper number; a block's variant never changes; the identity outputs are the configuration's
numbers and never change (R2, R21). -/
def Obligations.VariantAndIdentityAreFixed : Prop :=
  (∀ (m : BitVec 12) (v : Variant), variantOf m = some v ↔
    (m.toNat = 0 ∧ v = .nrom) ∨ (m.toNat = 1 ∧ v = .mmc1) ∨ (m.toNat = 2 ∧ v = .uxrom) ∨
    (m.toNat = 3 ∧ v = .cnrom) ∨ (m.toNat = 4 ∧ v = .mmc3)) ∧
  (∀ s : State, s.mapperNumber = s.cfg.mapper ∧ s.submapper = s.cfg.submapper) ∧
  (∀ s t : State, step s = .next t →
    t.variant = s.variant ∧ t.mapperNumber = s.mapperNumber ∧ t.submapper = s.submapper)

/-- A read transaction changes nothing but the answer, and the same read repeated answers the same (R70; decision
D5; the reply field is the model's, log entry 6). -/
def Obligations.ReadsChangeNoState : Prop :=
  ∀ (i : Instr) (s t : State), isRead i = true → exec i s = .next t →
    t = { s with reply := t.reply } ∧ t.reply ≠ .nothing ∧ exec i t = .next t

/-- A PRG-RAM byte changes only by a PRG-RAM write to it, which leaves the datum there (R66, R162, R181, R241;
decisions D8, D12, D25). -/
def Obligations.PrgRamChangesOnlyAtTheStoredByte : Prop :=
  ∀ (i : Instr) (s t : State) (o : Nat), s.Inv → exec i s = .next t →
    Memory.read t.prgRam o ≠ Memory.read s.prgRam o →
    ∃ (a : Addr) (d : Byte), (i = .nromPrgRamWrite a d ∨ i = .mmc1PrgRamWrite a d ∨ i = .mmc3PrgRamWrite a d) ∧
      o = ramOffset a ∧ Memory.read t.prgRam o = d

/-- A CHR byte changes only by a CHR write in a block with CHR-RAM, at the offset the variant's window translates
the address to, and then holds the datum (R65, R166, R184, R203, R213, R244; decisions D13, D19, D23). -/
def Obligations.ChrChangesOnlyAtTheStoredByte : Prop :=
  ∀ (i : Instr) (s t : State) (o : Nat), s.Inv → exec i s = .next t →
    Memory.read t.chr o ≠ Memory.read s.chr o →
    s.cfg.chrIsRam = true ∧ ∃ (a : Addr) (d : Byte), Memory.read t.chr o = d ∧
      ((i = .nromChrWrite a d ∧ o = fixedChrOffset a) ∨
       (∃ r, s.regs = .mmc1 r ∧ i = .mmc1ChrWrite a d ∧ o = r.chrOffset s.cfg a) ∨
       (i = .uxromChrWrite a d ∧ o = fixedChrOffset a) ∨
       (∃ r, s.regs = .cnrom r ∧ i = .cnromChrWrite a d ∧ o = r.chrOffset a) ∨
       (∃ r, s.regs = .mmc3 r ∧ i = .mmc3ChrWrite a d ∧ o = r.chrOffset s.cfg a))

/-- A register changes only by a CPU write to $8000-$FFFF or, in an MMC3, by an A12 rise or an acknowledge (R27,
R70, R170, R220; decisions D5, D45). -/
def Obligations.RegistersChangeOnlyByRomWritesAndSignals : Prop :=
  ∀ (s t : State) (w : TWord) (ws : List TWord), s.inputs = w :: ws → step s = .next t → t.regs ≠ s.regs →
    (opField w = 1 ∧ 0x8000 ≤ (addrField w).toNat) ∨
    (s.variant = .mmc3 ∧ (opField w = 4 ∨ opField w = 5))

/-- Every address of a register's range is the same register: MMC3 decodes `A[15:13]` and `A[0]`, MMC1 `A[15:13]`,
CNROM and UxROM (without bus conflicts) `A[15]` (R97; decision D15). -/
def Obligations.RegisterAddressesAlias : Prop :=
  ∀ (s : State) (a a' : Addr) (d : Byte) (ws : List TWord), 0x8000 ≤ a.toNat → 0x8000 ≤ a'.toNat →
    (s.variant = .mmc3 → region a = region a' → a.getLsbD 0 = a'.getLsbD 0 →
      step { s with inputs := asmWr a d :: ws } = step { s with inputs := asmWr a' d :: ws }) ∧
    (s.variant = .mmc1 → region a = region a' →
      step { s with inputs := asmWr a d :: ws } = step { s with inputs := asmWr a' d :: ws }) ∧
    (s.variant = .cnrom → step { s with inputs := asmWr a d :: ws } = step { s with inputs := asmWr a' d :: ws }) ∧
    (s.variant = .uxrom → s.params.uxromBusConflicts = false →
      step { s with inputs := asmWr a d :: ws } = step { s with inputs := asmWr a' d :: ws })

/-! ## Bank arithmetic and storage -/

/-- Bank normalisation is the remainder and lies in [0, n) (R62). MMC1's and MMC3's bank indices lie there whatever the
registers hold (R178, R179, R230, R231; decisions D13, D23). UxROM's and CNROM's bank registers hold reduced numbers
(R33, R34; decisions D17, D20, log entry 20), and the invariant, which is a premise, says that of them. -/
def Obligations.BankIndicesAreRemaindersInRange : Prop :=
  (∀ b n : Nat, 0 < n → norm b n = b % n ∧ norm b n < n) ∧
  (∀ (r : Mmc1) (n slot : Nat), 0 < n → r.prgBank n slot < n ∧ r.chrBank n slot < n) ∧
  (∀ (r : Mmc3) (n slot : Nat), 0 < n → r.prgBank n slot < n ∧ r.chrBank n slot < n) ∧
  (∀ (s : State) (r : Uxrom), s.Inv → s.regs = .uxrom r → r.bank.toNat < s.cfg.prgLen / 16384) ∧
  (∀ (s : State) (r : Cnrom), s.Inv → s.regs = .cnrom r → r.chrBank.toNat < s.cfg.chrLen / 8192)

/-- `ChrRead(o)` returns byte `o`; `ChrWrite(o, v)` sets byte `o` to `v` when CHR is RAM and does nothing when it is
ROM (R65). -/
def Obligations.ChrWritesTakeEffectOnlyInRam : Prop :=
  ∀ (s : State) (o : Nat) (v : Byte), s.Inv → o < s.cfg.chrLen →
    s.readChr o = .next { s with reply := .byte (Memory.read s.chr o) } ∧
    ∃ t, s.writeChr o v = .next t ∧ t = { s with chr := t.chr, reply := .nothing } ∧
      (∀ p, Memory.read t.chr p =
        if s.cfg.chrIsRam = true ∧ p = o then v else Memory.read s.chr p)

/-! ## Every variant: unmapped addresses, the resolver -/

/-- CPU addresses below $6000 and PPU addresses from $2000 on reach no storage and no register: a read answers
OPEN_BUS, a write changes nothing (R61; decision D7, log entry 21). OPEN_BUS is any value (log entry 3). -/
def Obligations.UnmappedAddressesReachNothing : Prop :=
  ∀ (s : State) (a : Addr) (d : Byte),
    exec (.allCpuUnmappedRead a) s = .next { s with reply := .byte s.params.openBus } ∧
    exec (.allCpuUnmappedWrite a d) s = .next { s with reply := .nothing } ∧
    exec (.allPpuUnmappedRead a) s = .next { s with reply := .byte s.params.openBus } ∧
    exec (.allPpuUnmappedWrite a d) s = .next { s with reply := .nothing }

/-- NT_MAP answers the resolver's offset for the block's current mirroring mode, whatever `A[15:12]` and `D` of its
word are (R121; decisions D38, D39). -/
def Obligations.NametableMapAnswersTheResolver : Prop :=
  (∀ (s : State) (a : BitVec 12),
    exec (.allNtMap a) s = .next { s with reply := .offset (resolve s.mirroring (a.setWidth 16)) }) ∧
  (∀ (s : State) (w : TWord) (ws : List TWord), s.inputs = w :: ws → opField w = 6 →
    step s = .next { s with
        inputs := ws, started := true, reply := .offset (resolve s.mirroring (addrField w)) })

/-- The resolver: its result depends on the mode and the low 12 bits of the address alone, and in the four modes with
2KB of VRAM it is bit 11 or bit 10 or a constant, and the offset in the nametable (R120, R122-R125). -/
def Obligations.ResolverFoldsNametables : Prop :=
  (∀ (m : Mirroring) (A B : Addr), A.toNat % 4096 = B.toNat % 4096 → resolve m A = resolve m B) ∧
  ∀ A : Addr,
    (resolve .horizontal A).toNat = A.toNat / 2048 % 2 * 1024 + A.toNat % 1024 ∧
    (resolve .vertical A).toNat = A.toNat / 1024 % 2 * 1024 + A.toNat % 1024 ∧
    (resolve .singleScreenLower A).toNat = A.toNat % 1024 ∧
    (resolve .singleScreenUpper A).toNat = 1024 + A.toNat % 1024

/-- FourScreen returns the low 12 bits unreduced, and the VRAM bank is the offset's bits 11:10, below 2 in every other
mode (R126, R127; decision D39, conflict C2). -/
def Obligations.ResolverFourScreenAndBankView : Prop :=
  ∀ (m : Mirroring) (A : Addr),
    (resolve .fourScreen A).toNat = A.toNat % 4096 ∧
    (vramBank m A).toNat = (resolve m A).toNat / 1024 ∧
    (m ≠ .fourScreen → (vramBank m A).toNat < 2)

/-- `mirroring()` per variant: the header's mode in NROM, UxROM and CNROM; MMC1's by `control[1:0]`; MMC3's by the
mirroring register (R167, R185, R205, R215, R245; decisions D16, D24, D41). -/
def Obligations.MirroringOutputPerVariant : Prop :=
  ∀ s : State,
    ((s.variant = .nrom ∨ s.variant = .uxrom ∨ s.variant = .cnrom) → s.mirroring = s.cfg.mirroring) ∧
    (∀ r, s.regs = .mmc1 r →
      (r.control.toNat % 4 = 0 → s.mirroring = .singleScreenLower) ∧
      (r.control.toNat % 4 = 1 → s.mirroring = .singleScreenUpper) ∧
      (r.control.toNat % 4 = 2 → s.mirroring = .vertical) ∧
      (r.control.toNat % 4 = 3 → s.mirroring = .horizontal)) ∧
    (∀ r, s.regs = .mmc3 r → s.mirroring = if r.mirror = true then .horizontal else .vertical)

/-! ## NROM -/

/-- NROM's PRG-RAM window: PRG-RAM when the parameter says so, else open bus and dropped writes (R161, R162;
decisions D6, D8). -/
def Obligations.NromPrgRamFollowsTheParameter : Prop :=
  ∀ (s : State) (a : Addr) (d : Byte), s.Inv → s.regs = .nrom →
    exec (.nromPrgRamRead a) s = .next { s with
        reply := .byte (if s.params.nromPrgRam = true then Memory.read s.prgRam (a.toNat % 8192)
          else s.params.openBus) } ∧
    ∃ t, exec (.nromPrgRamWrite a d) s = .next t ∧ storesPrgRam s t (s.params.nromPrgRam = true) (a.toNat % 8192) d

/-- NROM's PRG-ROM window: `A[14:0] mod prg_len`, so a 16KB image shows in both halves (R163, derived by the spec
from R63). -/
def Obligations.NromPrgRomReadMirrorsSmallImages : Prop :=
  ∀ (s : State) (a : Addr), s.Inv → s.regs = .nrom →
    exec (.nromPrgRomRead a) s =
      .next { s with reply := .byte (Memory.read s.prgRom (a.toNat % 32768 % s.cfg.prgLen)) } ∧
    (s.cfg.prgLen = 16384 → ∀ o : Nat, o < 0x4000 →
      exec (.nromPrgRomRead (BitVec.ofNat 16 (0x8000 + o))) s =
        exec (.nromPrgRomRead (BitVec.ofNat 16 (0xC000 + o))) s)

/-- NROM ignores writes to PRG-ROM addresses; its CHR window is a fixed 8KB, written only when CHR is RAM; with the
words that spell these transactions (R164, R165, R166). -/
def Obligations.NromRomWritesAndChrWindow : Prop :=
  ∀ (s : State) (a : Addr) (d : Byte), s.Inv → s.regs = .nrom →
    (0x8000 ≤ a.toNat → decode s.variant (asmWr a d) = .nromPrgRomWrite a d) ∧
    (a.toNat < 0x2000 → decode s.variant (asmPrd a) = .nromChrRead a ∧
      decode s.variant (asmPwr a d) = .nromChrWrite a d) ∧
    exec (.nromPrgRomWrite a d) s = .next { s with reply := .nothing } ∧
    exec (.nromChrRead a) s = .next { s with reply := .byte (Memory.read s.chr (a.toNat % 8192)) } ∧
    (∃ t, exec (.nromChrWrite a d) s = .next t ∧ storesChr s t (a.toNat % 8192) d)

/-- A12_RISE and IRQ_ACK are no-ops on every variant but MMC3, and the IRQ output of those variants is always false;
with the words that spell them (R168, R169, R186, R187, R206, R207, R216, R217). -/
def Obligations.SignalsAreNoOpsOutsideMmc3 : Prop :=
  ∀ s : State,
    (s.variant = .nrom → decode s.variant asmA12 = .nromA12Rise ∧ decode s.variant asmAck = .nromIrqAck ∧
      exec .nromA12Rise s = .next { s with reply := .nothing } ∧
      exec .nromIrqAck s = .next { s with reply := .nothing }) ∧
    (s.variant = .mmc1 → decode s.variant asmA12 = .mmc1A12Rise ∧ decode s.variant asmAck = .mmc1IrqAck ∧
      exec .mmc1A12Rise s = .next { s with reply := .nothing } ∧
      exec .mmc1IrqAck s = .next { s with reply := .nothing }) ∧
    (s.variant = .uxrom → decode s.variant asmA12 = .uxromA12Rise ∧ decode s.variant asmAck = .uxromIrqAck ∧
      exec .uxromA12Rise s = .next { s with reply := .nothing } ∧
      exec .uxromIrqAck s = .next { s with reply := .nothing }) ∧
    (s.variant = .cnrom → decode s.variant asmA12 = .cnromA12Rise ∧ decode s.variant asmAck = .cnromIrqAck ∧
      exec .cnromA12Rise s = .next { s with reply := .nothing } ∧
      exec .cnromIrqAck s = .next { s with reply := .nothing }) ∧
    (s.variant ≠ .mmc3 → s.irqPending = false)

/-! ## MMC1 -/

/-- `m1.prg[4]` gates PRG-RAM: 0 reads and writes it, 1 answers open bus and drops writes (R180, R181; decisions D6,
D12, D45). The serial state is untouched. -/
def Obligations.Mmc1PrgRamGate : Prop :=
  ∀ (s : State) (r : Mmc1) (a : Addr) (d : Byte), s.Inv → s.regs = .mmc1 r →
    exec (.mmc1PrgRamRead a) s = .next { s with
        reply := .byte (if r.prg.getLsbD 4 = false then Memory.read s.prgRam (a.toNat % 8192)
          else s.params.openBus) } ∧
    ∃ t, exec (.mmc1PrgRamWrite a d) s = .next t ∧ storesPrgRam s t (r.prg.getLsbD 4 = false) (a.toNat % 8192) d

/-- MMC1's PRG-ROM window, by PRG mode: the byte of the bank that the slot shows (R178, R182; decisions D10, D12,
D13). -/
def Obligations.Mmc1PrgRomReadByMode : Prop :=
  ∀ (s : State) (r : Mmc1) (a : Addr) (n mode bank slot : Nat), s.Inv → s.regs = .mmc1 r →
    n = s.cfg.prgLen / 16384 → mode = r.control.toNat / 4 % 4 → bank = r.prg.toNat % 16 →
    slot = a.toNat / 16384 % 2 →
    ∃ k, exec (.mmc1PrgRomRead a) s =
        .next { s with reply := .byte (Memory.read s.prgRom (k * 16384 + a.toNat % 16384)) } ∧
      (mode ≤ 1 → k = (bank / 2 * 2 + slot) % n) ∧
      (mode = 2 → k = if slot = 0 then 0 else bank % n) ∧
      (mode = 3 → k = if slot = 0 then bank % n else n - 1)

/-- MMC1's CHR window, by CHR mode: what a read answers and, in CHR-RAM, what a write stores (R179, R183, R184;
decisions D10, D13). -/
def Obligations.Mmc1ChrAccessByMode : Prop :=
  ∀ (s : State) (r : Mmc1) (a : Addr) (d : Byte) (n slot : Nat), s.Inv → s.regs = .mmc1 r →
    n = s.cfg.chrLen / 4096 → slot = a.toNat / 4096 % 2 →
    ∃ k, (r.control.getLsbD 4 = false → k = (r.chr0.toNat / 2 * 2 + slot) % n) ∧
      (r.control.getLsbD 4 = true → k = if slot = 0 then r.chr0.toNat % n else r.chr1.toNat % n) ∧
      exec (.mmc1ChrRead a) s =
        .next { s with reply := .byte (Memory.read s.chr (k * 4096 + a.toNat % 4096)) } ∧
      (∃ t, exec (.mmc1ChrWrite a d) s = .next t ∧ storesChr s t (k * 4096 + a.toNat % 4096) d)

/-- The reset write drops the sequence and forces PRG mode 3; `control[4]`, `control[1:0]` and the bank registers
are kept (R172; decisions D10, D11, conflict C1). -/
def Obligations.Mmc1ResetWriteForcesMode3 : Prop :=
  ∀ (s : State) (r : Mmc1) (a : Addr) (d : Byte), s.regs = .mmc1 r →
    ∃ c : BitVec 5, c.toNat / 4 % 4 = 3 ∧ c.toNat % 4 = r.control.toNat % 4 ∧ c.getLsbD 4 = r.control.getLsbD 4 ∧
      exec (.mmc1Reset a d) s = .next { s with
          reply := .nothing
          regs := .mmc1 { r with shift := 0, count := 0, control := c } }

/-- A serial write to $8000-$9FFF places `D[0]` at bit `count` of the accumulator; the write that finds the counter
at 4 puts the value into Control and clears accumulator and counter (R173, R174). That $8000-$9FFF is Control's range
is general knowledge of the family (R97, R171; decision D15, log entry 14). -/
def Obligations.Mmc1SerialControl : Prop :=
  ∀ (s : State) (r : Mmc1) (a : Addr) (d : Byte) (acc : BitVec 5), s.regs = .mmc1 r →
    acc = r.shift ||| ((BitVec.ofBool (d.getLsbD 0)).setWidth 5 <<< r.count.toNat) →
    (a.toNat / 8192 = 4 → d.getLsbD 7 = false → decode s.variant (asmWr a d) = .mmc1SerialControl a d) ∧
    exec (.mmc1SerialControl a d) s = .next { s with
        reply := .nothing
        regs := .mmc1 (if r.count.toNat = 4 then { r with control := acc, shift := 0, count := 0 }
          else { r with shift := acc, count := r.count + 1 }) }

/-- The other three serial targets, in the same way (R175, R176, R177; the ranges are decision D15). -/
def Obligations.Mmc1SerialBankRegisters : Prop :=
  ∀ (s : State) (r : Mmc1) (a : Addr) (d : Byte) (acc : BitVec 5), s.regs = .mmc1 r →
    acc = r.shift ||| ((BitVec.ofBool (d.getLsbD 0)).setWidth 5 <<< r.count.toNat) →
    (r.count.toNat ≠ 4 → ∀ i, i = .mmc1SerialChr0 a d ∨ i = .mmc1SerialChr1 a d ∨ i = .mmc1SerialPrg a d →
      exec i s = .next { s with reply := .nothing, regs := .mmc1 { r with shift := acc, count := r.count + 1 } }) ∧
    (r.count.toNat = 4 →
      exec (.mmc1SerialChr0 a d) s =
        .next { s with reply := .nothing, regs := .mmc1 { r with chr0 := acc, shift := 0, count := 0 } } ∧
      exec (.mmc1SerialChr1 a d) s =
        .next { s with reply := .nothing, regs := .mmc1 { r with chr1 := acc, shift := 0, count := 0 } } ∧
      exec (.mmc1SerialPrg a d) s =
        .next { s with reply := .nothing, regs := .mmc1 { r with prg := acc, shift := 0, count := 0 } })

/-- Five serial writes from an empty accumulator, at any addresses of $8000-$FFFF, put the five `D[0]` bits, first
write lowest, into the register that the FIFTH write's address names, and into no other (R171, R173; decision D15;
run through `step`, log entry 5). -/
def Obligations.Mmc1FiveWritesFillTheFifthTarget : Prop :=
  ∀ (s : State) (r : Mmc1) (a0 a1 a2 a3 a4 : Addr) (d0 d1 d2 d3 d4 : Byte) (ws : List TWord),
    s.regs = .mmc1 r → r.shift = 0 → r.count = 0 →
    (∀ a ∈ [a0, a1, a2, a3, a4], 0x8000 ≤ a.toNat) → (∀ d ∈ [d0, d1, d2, d3, d4], d.getLsbD 7 = false) →
    s.inputs = asmWr a0 d0 :: asmWr a1 d1 :: asmWr a2 d2 :: asmWr a3 d3 :: asmWr a4 d4 :: ws →
    ∃ (t : State) (v : BitVec 5), stepTimes 5 s = .next t ∧ t.inputs = ws ∧
      v.toNat = d0.toNat % 2 + 2 * (d1.toNat % 2) + 4 * (d2.toNat % 2) + 8 * (d3.toNat % 2) + 16 * (d4.toNat % 2) ∧
      (a4.toNat / 8192 = 4 → t.regs = .mmc1 { r with control := v }) ∧
      (a4.toNat / 8192 = 5 → t.regs = .mmc1 { r with chr0 := v }) ∧
      (a4.toNat / 8192 = 6 → t.regs = .mmc1 { r with chr1 := v }) ∧
      (a4.toNat / 8192 = 7 → t.regs = .mmc1 { r with prg := v })

/-! ## UxROM -/

/-- UxROM's bank select: all 8 data bits, reduced; with bus conflicts on, only when the datum equals the PRG-ROM
byte the address shows (R201; decisions D17, D18). -/
def Obligations.UxromBankSelect : Prop :=
  ∀ (s : State) (r : Uxrom) (a : Addr) (d : Byte) (n : Nat), s.Inv → s.regs = .uxrom r → n = s.cfg.prgLen / 16384 →
    exec (.uxromBankSelect a d) s =
      if s.params.uxromBusConflicts = true ∧ d ≠ Memory.read s.prgRom
          ((if a.toNat / 16384 % 2 = 0 then r.bank.toNat else n - 1) * 16384 + a.toNat % 16384) then
        .next { s with reply := .nothing }
      else .next { s with reply := .nothing, regs := .uxrom { bank := BitVec.ofNat 8 (d.toNat % n) } }

/-- UxROM's PRG-ROM window, the switched bank low and the last bank high; its fixed CHR window; its window without
PRG-RAM (R200, R202, R203, R204, R208; decisions D6, D8, D17, D19). -/
def Obligations.UxromWindows : Prop :=
  ∀ (s : State) (r : Uxrom) (a : Addr) (d : Byte), s.Inv → s.regs = .uxrom r →
    exec (.uxromPrgRomRead a) s = .next { s with
        reply := .byte (Memory.read s.prgRom ((if a.toNat / 16384 % 2 = 0 then r.bank.toNat
          else s.cfg.prgLen / 16384 - 1) * 16384 + a.toNat % 16384)) } ∧
    exec (.uxromChrRead a) s = .next { s with reply := .byte (Memory.read s.chr (a.toNat % 8192)) } ∧
    (∃ t, exec (.uxromChrWrite a d) s = .next t ∧ storesChr s t (a.toNat % 8192) d) ∧
    exec (.uxromWramRead a) s = .next { s with reply := .byte s.params.openBus } ∧
    exec (.uxromWramWrite a d) s = .next { s with reply := .nothing }

/-! ## CNROM -/

/-- CNROM's CHR bank select: all 8 data bits, reduced, at any address, and no PRG-RAM at $6000-$7FFF (R211, R214,
R218; decisions D6, D8, D20). -/
def Obligations.CnromBankSelectAndWramWindow : Prop :=
  ∀ (s : State) (a : Addr) (d : Byte), s.Inv → s.variant = .cnrom →
    exec (.cnromChrBankSelect a d) s = .next { s with
        reply := .nothing
        regs := .cnrom { chrBank := BitVec.ofNat 8 (d.toNat % (s.cfg.chrLen / 8192)) } } ∧
    exec (.cnromWramRead a) s = .next { s with reply := .byte s.params.openBus } ∧
    exec (.cnromWramWrite a d) s = .next { s with reply := .nothing }

/-- CNROM's fixed PRG-ROM window and its switched CHR window, with the words that spell the transactions (R210, R212,
R213). -/
def Obligations.CnromPrgAndChrWindows : Prop :=
  ∀ (s : State) (r : Cnrom) (a : Addr) (d : Byte), s.Inv → s.regs = .cnrom r →
    (0x8000 ≤ a.toNat → decode s.variant (asmRd a) = .cnromPrgRomRead a) ∧
    (a.toNat < 0x2000 → decode s.variant (asmPrd a) = .cnromChrRead a ∧
      decode s.variant (asmPwr a d) = .cnromChrWrite a d) ∧
    exec (.cnromPrgRomRead a) s =
      .next { s with reply := .byte (Memory.read s.prgRom (a.toNat % 32768 % s.cfg.prgLen)) } ∧
    exec (.cnromChrRead a) s =
      .next { s with reply := .byte (Memory.read s.chr (r.chrBank.toNat * 8192 + a.toNat % 8192)) } ∧
    (∃ t, exec (.cnromChrWrite a d) s = .next t ∧ storesChr s t (r.chrBank.toNat * 8192 + a.toNat % 8192) d)

/-! ## MMC3 -/

/-- Bank select takes `D[2:0]`, `D[6]`, `D[7]`; bank data goes to the register that `sel` names and to no other
(R222, R223; decisions D21, D22). -/
def Obligations.Mmc3BankSelectAndData : Prop :=
  ∀ (s : State) (r : Mmc3) (a : Addr) (d : Byte), s.regs = .mmc3 r →
    (∃ q : Mmc3, exec (.mmc3BankSelect a d) s = .next { s with reply := .nothing, regs := .mmc3 q } ∧
      q = { r with sel := q.sel, prgMode := q.prgMode, chrMode := q.chrMode } ∧
      q.sel.toNat = d.toNat % 8 ∧ q.prgMode = d.getLsbD 6 ∧ q.chrMode = d.getLsbD 7) ∧
    (∃ q : Mmc3, exec (.mmc3BankData a d) s = .next { s with reply := .nothing, regs := .mmc3 q } ∧
      q = { r with r := q.r } ∧
      ∀ (k : Nat) (hk : k < 8), q.r[k] = if k = r.sel.toNat then d else r.r[k])

/-- The mirroring register takes `D[0]`, the PRG-RAM protect register `D[7]` and `D[6]`; an enable write sets enable
and raises nothing; an acknowledge clears the request and nothing else (R224, R225, R229, R235; decisions D24, D25,
D27, D28). -/
def Obligations.Mmc3MirroringProtectEnableAcknowledge : Prop :=
  ∀ (s : State) (r : Mmc3) (a : Addr) (d : Byte), s.regs = .mmc3 r →
    exec (.mmc3Mirroring a d) s =
      .next { s with reply := .nothing, regs := .mmc3 { r with mirror := d.getLsbD 0 } } ∧
    exec (.mmc3PrgRamProtect a d) s = .next { s with
        reply := .nothing
        regs := .mmc3 { r with ramEnable := d.getLsbD 7, ramProtect := d.getLsbD 6 } } ∧
    exec (.mmc3IrqEnable a d) s = .next { s with reply := .nothing, regs := .mmc3 { r with irqEnable := true } } ∧
    exec .mmc3IrqAck s = .next { s with reply := .nothing, regs := .mmc3 { r with irqPending := false } }

/-- The latch takes the datum; a reload write only sets the reload flag; a disable write clears enable and request,
whatever the datum; with the words that spell them (R226, R227, R228). -/
def Obligations.Mmc3LatchReloadDisable : Prop :=
  ∀ (s : State) (r : Mmc3) (a : Addr) (d : Byte), s.regs = .mmc3 r →
    (a.toNat / 8192 = 6 → a.toNat % 2 = 0 → decode s.variant (asmWr a d) = .mmc3IrqLatch a d) ∧
    (a.toNat / 8192 = 6 → a.toNat % 2 = 1 → decode s.variant (asmWr a d) = .mmc3IrqReload a d) ∧
    (a.toNat / 8192 = 7 → a.toNat % 2 = 0 → decode s.variant (asmWr a d) = .mmc3IrqDisable a d) ∧
    exec (.mmc3IrqLatch a d) s = .next { s with reply := .nothing, regs := .mmc3 { r with irqLatch := d } } ∧
    exec (.mmc3IrqReload a d) s = .next { s with reply := .nothing, regs := .mmc3 { r with irqReload := true } } ∧
    exec (.mmc3IrqDisable a d) s =
      .next { s with reply := .nothing, regs := .mmc3 { r with irqEnable := false, irqPending := false } }

/-- An A12 rise reloads or decrements, then tests for zero; it never clears the request (R232; decisions D27, D33,
conflict C6). -/
def Obligations.Mmc3A12RiseCounts : Prop :=
  ∀ (s : State) (r : Mmc3), s.regs = .mmc3 r →
    ∃ c : BitVec 8,
      (r.irqCounter.toNat = 0 ∨ r.irqReload = true → c = r.irqLatch) ∧
      (r.irqCounter.toNat ≠ 0 → r.irqReload = false → c.toNat + 1 = r.irqCounter.toNat) ∧
      exec .mmc3A12Rise s = .next { s with
          reply := .nothing
          regs := .mmc3 { r with
            irqCounter := c, irqReload := false
            irqPending := r.irqPending || (decide (c.toNat = 0) && r.irqEnable) } }

/-- The counting law: from a state about to reload, with latch `L` and interrupts enabled, the first `L` edges leave
the request as it was and edge `L + 1` sets it, with the counter 0 again, about to reload (R233, derived by the
spec from R232; decision D27). -/
def Obligations.Mmc3CountingLaw : Prop :=
  ∀ (s : State) (r : Mmc3), s.regs = .mmc3 r → (r.irqReload = true ∨ r.irqCounter = 0) → r.irqEnable = true →
    (∀ k, k ≤ r.irqLatch.toNat → ∃ t, execTimes k .mmc3A12Rise s = .next t ∧ t.irqPending = s.irqPending) ∧
    execTimes (r.irqLatch.toNat + 1) .mmc3A12Rise s = .next { s with
        reply := .nothing
        regs := .mmc3 { r with irqCounter := 0, irqReload := false, irqPending := true } }

/-- MMC3's PRG-RAM: a disabled chip answers open bus and drops writes, a protected one drops writes (R240, R241;
decisions D6, D25). -/
def Obligations.Mmc3PrgRamGates : Prop :=
  ∀ (s : State) (r : Mmc3) (a : Addr) (d : Byte), s.Inv → s.regs = .mmc3 r →
    exec (.mmc3PrgRamRead a) s = .next { s with
        reply := .byte (if r.ramEnable = true then Memory.read s.prgRam (a.toNat % 8192)
          else s.params.openBus) } ∧
    ∃ t, exec (.mmc3PrgRamWrite a d) s = .next t ∧
      storesPrgRam s t (r.ramEnable = true ∧ r.ramProtect = false) (a.toNat % 8192) d

/-- MMC3's PRG-ROM window: R6 and the second-to-last bank trade places with the mode, R7 and the last bank do not
move (R230, R242; decision D23). -/
def Obligations.Mmc3PrgRomReadByMode : Prop :=
  ∀ (s : State) (r : Mmc3) (a : Addr) (n slot : Nat), s.Inv → s.regs = .mmc3 r → n = s.cfg.prgLen / 8192 →
    slot = a.toNat / 8192 % 4 →
    ∃ k, exec (.mmc3PrgRomRead a) s =
        .next { s with reply := .byte (Memory.read s.prgRom (k * 8192 + a.toNat % 8192)) } ∧
      (slot = 0 → k = if r.prgMode = true then (if n = 1 then 0 else n - 2) else r.r[6].toNat % n) ∧
      (slot = 1 → k = r.r[7].toNat % n) ∧
      (slot = 2 → k = if r.prgMode = true then r.r[6].toNat % n else (if n = 1 then 0 else n - 2)) ∧
      (slot = 3 → k = n - 1)

/-- MMC3's CHR window: two 2KB banks in one half and four 1KB banks in the other, the halves by `chr_mode` (R231,
R243, R244; decision D23). -/
def Obligations.Mmc3ChrAccessByMode : Prop :=
  ∀ (s : State) (r : Mmc3) (a : Addr) (d : Byte) (n slot : Nat), s.Inv → s.regs = .mmc3 r →
    n = s.cfg.chrLen / 1024 →
    slot = (if r.chrMode = true then (a.toNat / 1024 + 4) % 8 else a.toNat / 1024 % 8) →
    ∃ k, (slot < 4 → ∃ b : Byte, b = (if slot < 2 then r.r[0] else r.r[1]) ∧
          k = (b.toNat / 2 * 2 + slot % 2) % n) ∧
      (slot = 4 → k = r.r[2].toNat % n) ∧ (slot = 5 → k = r.r[3].toNat % n) ∧
      (slot = 6 → k = r.r[4].toNat % n) ∧ (slot = 7 → k = r.r[5].toNat % n) ∧
      exec (.mmc3ChrRead a) s =
        .next { s with reply := .byte (Memory.read s.chr (k * 1024 + a.toNat % 1024)) } ∧
      (∃ t, exec (.mmc3ChrWrite a d) s = .next t ∧ storesChr s t (k * 1024 + a.toNat % 1024) d)

/-! ## The interrupt request -/

/-- The one interrupt source: enable is set and cleared by the $E000-range writes only; the request is raised only
by an A12 rise that leaves the counter at 0 while enabled, and cleared only by the disable write and by an
acknowledge; each of these does what it says; other variants have none (R262, R263). That a rise which leaves the
counter at 0 raises the request even when it has just reloaded 0 is decision D27, and that an acknowledge clears it is
decision D28 (R232, R235): design choices, log entry 19. -/
def Obligations.InterruptRequestIsSetAndClearedOnlyAsStated : Prop :=
  (∀ s : State, s.irqPending = true → ∃ r, s.regs = .mmc3 r ∧ r.irqPending = true) ∧
  (∀ (s : State) (r : Mmc3), s.regs = .mmc3 r → s.irqPending = r.irqPending) ∧
  (∀ (s t : State) (w : TWord) (ws : List TWord), s.inputs = w :: ws → step s = .next t →
    (s.irqPending = false → t.irqPending = true → decode s.variant w = .mmc3A12Rise ∧
      ∃ q, t.regs = .mmc3 q ∧ q.irqCounter = 0 ∧ q.irqEnable = true) ∧
    (s.irqPending = true → t.irqPending = false →
      decode s.variant w = .mmc3IrqAck ∨ ∃ a d, decode s.variant w = .mmc3IrqDisable a d) ∧
    (∀ r q, s.regs = .mmc3 r → t.regs = .mmc3 q → r.irqEnable ≠ q.irqEnable →
      (q.irqEnable = true ∧ ∃ a d, decode s.variant w = .mmc3IrqEnable a d) ∨
      (q.irqEnable = false ∧ ∃ a d, decode s.variant w = .mmc3IrqDisable a d)) ∧
    (∀ q, t.regs = .mmc3 q →
      (∀ a d, decode s.variant w = .mmc3IrqEnable a d → q.irqEnable = true) ∧
      (∀ a d, decode s.variant w = .mmc3IrqDisable a d → q.irqEnable = false ∧ q.irqPending = false) ∧
      (decode s.variant w = .mmc3IrqAck → q.irqPending = false) ∧
      (decode s.variant w = .mmc3A12Rise → q.irqCounter = 0 → q.irqEnable = true → q.irqPending = true)))

/-! ## Construction -/

/-- The checks of parsing, in their order; `Io` is never raised by parsing bytes (R131, R132, R139, R141, R142;
decision D35, log entry 16). -/
def Obligations.ParseChecksInOrder : Prop :=
  ∀ image : List Byte,
    ((image.length < 4 ∨ image.take 4 ≠ [0x4E, 0x45, 0x53, 0x1A]) ↔ parse image = .error .invalidMagic) ∧
    (image.take 4 = [0x4E, 0x45, 0x53, 0x1A] → image.length < 16 → parse image = .error .sizeMismatch) ∧
    (image.take 4 = [0x4E, 0x45, 0x53, 0x1A] → 16 ≤ image.length →
      (parse image = .error .unsupportedFormat ↔ (imageByte image 7).toNat / 4 % 2 = 1)) ∧
    (image.take 4 = [0x4E, 0x45, 0x53, 0x1A] → 16 ≤ image.length → (imageByte image 7).toNat / 4 % 2 = 0 →
      (parse image = .error .sizeMismatch ↔ image.length ≠ declaredLength image)) ∧
    parse image ≠ .error .io

/-- The header's mirroring: the four-screen flag overrides the mirroring bit, and no single-screen mode comes out
(R137); an empty CHR buffer is no error of a sound image and is CHR-RAM of 8192 bytes in the block (R140); a CHR size
that is not 0 gives CHR-ROM of that size (R130, R139). The bit positions in bytes 6 and 7 and what makes an image sound
(R131, R132, R139, R142) are general knowledge and decision D35, presumed in log entry 16. -/
def Obligations.HeaderMirroringAndChrRam : Prop :=
  (∀ (image : List Byte) (rom : RomImage), parse image = .ok rom →
    rom.cfg.fourScreen = (imageByte image 6).getLsbD 3 ∧
    rom.cfg.mirroring = (if rom.cfg.fourScreen = true then .fourScreen
      else if (imageByte image 6).getLsbD 0 = true then .vertical else .horizontal) ∧
    (headerChrSize image = 0 → rom.chr = [] ∧ ∀ p ri ci s, create p ri ci rom = .block s →
      s.cfg.chrIsRam = true ∧ s.cfg.chrLen = 8192) ∧
    (headerChrSize image ≠ 0 → rom.cfg.chrIsRam = false ∧ rom.cfg.chrLen = headerChrSize image)) ∧
  (∀ image : List Byte, image.take 4 = [0x4E, 0x45, 0x53, 0x1A] → 16 ≤ image.length →
    (imageByte image 7).toNat / 4 % 2 = 0 → headerChrSize image = 0 → image.length = declaredLength image →
    ∃ rom, parse image = .ok rom)

/-- The header's numbers and flags, the sizes and where the bytes lie (R133-R136, R138, R139; field positions from
general knowledge, decision D35, log entry 16). -/
def Obligations.HeaderFieldsAndLayout : Prop :=
  ∀ (image : List Byte) (rom : RomImage) (b4 b5 b6 b7 b8 b9 t P C : Nat) (x : Bool), parse image = .ok rom →
    b4 = (imageByte image 4).toNat → b5 = (imageByte image 5).toNat → b6 = (imageByte image 6).toNat →
    b7 = (imageByte image 7).toNat → b8 = (imageByte image 8).toNat → b9 = (imageByte image 9).toNat →
    x = decide (b7 / 4 % 4 = 2) → t = (if b6 / 4 % 2 = 1 then 512 else 0) →
    P = (if x = false then b4 * 16384 else if b9 % 16 = 15 then
      2 ^ (b4 / 4) * (2 * (b4 % 4) + 1) / 16384 * 16384 else (b9 % 16 * 256 + b4) * 16384) →
    C = (if x = false then b5 * 8192 else if b9 / 16 = 15 then
      2 ^ (b5 / 4) * (2 * (b5 % 4) + 1) / 8192 * 8192 else (b9 / 16 * 256 + b5) * 8192) →
    rom.mapper.toNat = (if x = true then b8 % 16 else 0) * 256 + b7 / 16 * 16 + b6 / 16 ∧
    rom.submapper.toNat = (if x = true then b8 / 16 else 0) ∧
    rom.battery = decide (b6 / 2 % 2 = 1) ∧
    image.length = 16 + t + P + C ∧
    rom.trainer = (if t = 0 then none else some ((image.drop 16).take 512)) ∧
    rom.prg = (image.drop (16 + t)).take P ∧ rom.chr = (image.drop (16 + t + P)).take C

/-- The factory: mapper numbers 0 to 4 give the five variants, every other number fails with that number (R150). -/
def Obligations.FactoryTable : Prop :=
  ∀ (p : Params) (ri ci : List Byte) (rom : RomImage),
    (5 ≤ rom.mapper.toNat → create p ri ci rom = .error (.unsupportedMapper rom.mapper)) ∧
    (rom.mapper.toNat < 5 → ∀ e, create p ri ci rom ≠ .error e) ∧
    (∀ s, create p ri ci rom = .block s →
      (rom.mapper.toNat = 0 ↔ s.variant = .nrom) ∧ (rom.mapper.toNat = 1 ↔ s.variant = .mmc1) ∧
      (rom.mapper.toNat = 2 ↔ s.variant = .uxrom) ∧ (rom.mapper.toNat = 3 ↔ s.variant = .cnrom) ∧
      (rom.mapper.toNat = 4 ↔ s.variant = .mmc3))

/-- The configuration check decides whether a block is built (R152; decision D34). -/
def Obligations.ConfigurationCheckDecidesConstruction : Prop :=
  ∀ (p : Params) (ri ci : List Byte) (rom : RomImage) (P C : Nat),
    P = rom.prg.length → C = (if rom.chr = [] then 8192 else rom.chr.length) →
    (rom.mapper.toNat = 0 →
      ((∃ s, create p ri ci rom = .block s) ↔ (P = 16384 ∨ P = 32768) ∧ C = 8192)) ∧
    (rom.mapper.toNat = 1 →
      ((∃ s, create p ri ci rom = .block s) ↔ 0 < P ∧ P % 16384 = 0 ∧ 0 < C ∧ C % 8192 = 0)) ∧
    (rom.mapper.toNat = 2 →
      ((∃ s, create p ri ci rom = .block s) ↔ 0 < P ∧ P % 16384 = 0 ∧ C = 8192)) ∧
    (rom.mapper.toNat = 3 →
      ((∃ s, create p ri ci rom = .block s) ↔ (P = 16384 ∨ P = 32768) ∧ 0 < C ∧ C % 8192 = 0)) ∧
    (rom.mapper.toNat = 4 →
      ((∃ s, create p ri ci rom = .block s) ↔ 0 < P ∧ P % 8192 = 0 ∧ 0 < C ∧ C % 1024 = 0)) ∧
    (rom.mapper.toNat < 5 → (∀ s, create p ri ci rom ≠ .block s) → create p ri ci rom = .refused)

/-- The values after construction: the registers of R48 and the arrays of R23-R25 (R48, R151; decisions D8, D9, D14,
D26, log entry 13). -/
def Obligations.ValuesAfterConstruction : Prop :=
  ∀ (p : Params) (ri ci : List Byte) (rom : RomImage) (s : State), create p ri ci rom = .block s →
    ri.length = 8192 → ci.length = 8192 →
    s.cfg = rom.cfg ∧ s.params = p ∧
    (∀ o, o < rom.prg.length → Memory.read s.prgRom o = rom.prg.getD o 0) ∧
    (rom.chr ≠ [] → ∀ o, o < rom.chr.length → Memory.read s.chr o = rom.chr.getD o 0) ∧
    (rom.chr = [] → ∀ o, o < 8192 → Memory.read s.chr o = ci.getD o 0) ∧
    (hasPrgRam s.variant p = true → ∀ o, o < 8192 → Memory.read s.prgRam o = ri.getD o 0) ∧
    (∀ r, s.regs = .mmc1 r → r = ⟨0, 0, 0x0C, 0, 0, 0⟩) ∧
    (∀ r, s.regs = .uxrom r → r = ⟨0⟩) ∧ (∀ r, s.regs = .cnrom r → r = ⟨0⟩) ∧
    (∀ r, s.regs = .mmc3 r → r.sel = 0 ∧ r.prgMode = false ∧ r.chrMode = false ∧
      (∀ (k : Nat) (hk : k < 8), r.r[k] = 0) ∧ (r.mirror = true ↔ rom.mirroring = .horizontal) ∧
      r.ramEnable = true ∧ r.ramProtect = false ∧ r.irqLatch = 0 ∧ r.irqCounter = 0 ∧ r.irqReload = false ∧
      r.irqEnable = false ∧ r.irqPending = false ∧ r.prevA12 = false)

/-- After construction a CPU read of $E000-$FFFF answers a byte of the image's last 8KB, in every variant (R281,
derived by the spec; decision D14, log entry 13). -/
def Obligations.TopOfWindowShowsTheLastBank : Prop :=
  ∀ (p : Params) (ri ci : List Byte) (rom : RomImage) (s : State) (a : Addr),
    create p ri ci rom = .block s → 0xE000 ≤ a.toNat →
    ∃ t, step { s with inputs := [asmRd a] } = .next t ∧
      t.reply = .byte (rom.prg.getD (rom.prg.length - 8192 + a.toNat % 8192) 0)

/-- The battery view: the 8192 bytes of PRG-RAM when there is a battery and PRG-RAM, else none; the mutable view is
open before the first transaction only, sets exactly those bytes, and closes with the first one (R78; decisions
D8, D37, log entry 7). -/
def Obligations.BatteryRamView : Prop :=
  ∀ (s : State) (bytes : List Byte),
    (s.sram.isSome = true ↔ s.cfg.battery = true ∧ hasPrgRam s.variant s.params = true) ∧
    (∀ l, s.sram = some l → l.length = 8192 ∧ ∀ o, o < 8192 → l.getD o 0 = Memory.read s.prgRam o) ∧
    ((s.loadSram bytes).isSome = true ↔ s.sram.isSome = true ∧ s.started = false ∧ bytes.length = 8192) ∧
    (∀ t, s.loadSram bytes = some t → t = { s with prgRam := t.prgRam } ∧ t.sram = some bytes) ∧
    (∀ t w ws, s.inputs = w :: ws → step s = .next t → t.started = true ∧ t.loadSram bytes = none)
end

