-- ==== Sys2Proof/Laws/Banks.lean ====
section
/-! SUPPORT. Every bank function answers a bank below the bank count, and an offset in a bank below the count lies
in the array (R62, R63). -/

namespace Sys2Proof.Machine

theorem norm_lt {b n : Nat} (h : 0 < n) : norm b n < n := Nat.mod_lt b h

/-- A slot of a bank below the count lies in the array. -/
theorem translate_lt {k size len : Nat} {a : Addr} (hs : 0 < size) (hk : k < len / size) :
    translate k size a < len := by
  have h1 : slotOffset a size < size := Nat.mod_lt _ hs
  have h2 : (k + 1) * size ≤ len / size * size := Nat.mul_le_mul_right _ hk
  have h3 : len / size * size ≤ len := Nat.div_mul_le_self _ _
  have h4 : (k + 1) * size = k * size + size := Nat.succ_mul k size
  unfold translate
  omega

theorem Mmc1.prgBank_lt (r : Mmc1) {n : Nat} (slot : Nat) (h : 0 < n) : r.prgBank n slot < n := by
  unfold Mmc1.prgBank
  split
  · exact norm_lt h
  · exact norm_lt h
  · split
    · exact h
    · exact norm_lt h
  · split
    · exact norm_lt h
    · omega

theorem Mmc1.chrBank_lt (r : Mmc1) {n : Nat} (slot : Nat) (h : 0 < n) : r.chrBank n slot < n := by
  unfold Mmc1.chrBank
  split
  · exact norm_lt h
  · split <;> exact norm_lt h

theorem Mmc3.prgBank_lt (r : Mmc3) {n : Nat} (slot : Nat) (h : 0 < n) : r.prgBank n slot < n := by
  unfold Mmc3.prgBank
  split <;> first | exact norm_lt h | exact Nat.mod_lt _ h | omega

theorem Mmc3.chrBank_lt (r : Mmc3) {n : Nat} (slot : Nat) (h : 0 < n) : r.chrBank n slot < n := norm_lt h

/-! ## What the configuration check gives -/

theorem positiveMultiple_div {m n : Nat} (h : positiveMultiple m n = true) : 0 < n / m ∧ n / m * m = n := by
  simp only [positiveMultiple, Bool.and_eq_true, decide_eq_true_eq, beq_iff_eq] at h
  have h2 := Nat.div_add_mod n m
  have h3 : n / m * m = n := by rw [Nat.mul_comm]; omega
  refine ⟨Nat.pos_of_ne_zero fun h0 => ?_, h3⟩
  rw [h0] at h3
  omega

theorem configOk_nrom {c : Cfg} (h : configOk .nrom c = true) :
    (c.prgLen = 16384 ∨ c.prgLen = 32768) ∧ c.chrLen = 8192 := by simpa [configOk] using h

theorem configOk_mmc1 {c : Cfg} (h : configOk .mmc1 c = true) :
    (0 < c.nPrg16 ∧ c.nPrg16 * 16384 = c.prgLen) ∧ 0 < c.nChr8 ∧ c.nChr8 * 8192 = c.chrLen := by
  simp only [configOk, Bool.and_eq_true] at h
  exact ⟨positiveMultiple_div h.1, positiveMultiple_div h.2⟩

theorem configOk_uxrom {c : Cfg} (h : configOk .uxrom c = true) :
    (0 < c.nPrg16 ∧ c.nPrg16 * 16384 = c.prgLen) ∧ c.chrLen = 8192 := by
  simp only [configOk, Bool.and_eq_true, beq_iff_eq] at h
  exact ⟨positiveMultiple_div h.1, h.2⟩

theorem configOk_cnrom {c : Cfg} (h : configOk .cnrom c = true) :
    (c.prgLen = 16384 ∨ c.prgLen = 32768) ∧ 0 < c.nChr8 ∧ c.nChr8 * 8192 = c.chrLen := by
  simp only [configOk, Bool.and_eq_true, Bool.or_eq_true, beq_iff_eq] at h
  exact ⟨h.1, positiveMultiple_div h.2⟩

theorem configOk_mmc3 {c : Cfg} (h : configOk .mmc3 c = true) :
    (0 < c.nPrg8 ∧ c.nPrg8 * 8192 = c.prgLen) ∧ 0 < c.nChr1 ∧ c.nChr1 * 1024 = c.chrLen := by
  simp only [configOk, Bool.and_eq_true] at h
  exact ⟨positiveMultiple_div h.1, positiveMultiple_div h.2⟩

/-! ## Where the windows lie -/

theorem fixedChrOffset_lt (a : Addr) : fixedChrOffset a < 8192 := Nat.mod_lt _ (by decide)

theorem ramOffset_lt (a : Addr) : ramOffset a < 8192 := Nat.mod_lt _ (by decide)

theorem Cfg.fixedPrgOffset_lt {c : Cfg} (a : Addr) (h : 0 < c.prgLen) : c.fixedPrgOffset a < c.prgLen :=
  Nat.mod_lt _ h

theorem Mmc1.prgOffset_lt (r : Mmc1) {c : Cfg} (a : Addr) (h : 0 < c.nPrg16) :
    r.prgOffset c a < c.prgLen := translate_lt (by decide) (r.prgBank_lt _ h)

theorem Mmc1.chrOffset_lt (r : Mmc1) {c : Cfg} (a : Addr) (h : 0 < c.nChr4) :
    r.chrOffset c a < c.chrLen := translate_lt (by decide) (r.chrBank_lt _ h)

theorem Uxrom.prgOffset_lt {r : Uxrom} {c : Cfg} (a : Addr) (hr : r.bank.toNat < c.nPrg16) :
    r.prgOffset c a < c.prgLen := by
  refine translate_lt (by decide) ?_
  split
  · exact hr
  · exact Nat.sub_lt (by omega) (by decide)

theorem Cnrom.chrOffset_lt {r : Cnrom} {c : Cfg} (a : Addr) (hr : r.chrBank.toNat < c.nChr8) :
    r.chrOffset a < c.chrLen := translate_lt (by decide) hr

theorem Mmc3.prgOffset_lt (r : Mmc3) {c : Cfg} (a : Addr) (h : 0 < c.nPrg8) :
    r.prgOffset c a < c.prgLen := translate_lt (by decide) (r.prgBank_lt _ h)

theorem Mmc3.chrOffset_lt (r : Mmc3) {c : Cfg} (a : Addr) (h : 0 < c.nChr1) :
    r.chrOffset c a < c.chrLen := translate_lt (by decide) (r.chrBank_lt _ h)

theorem Cfg.nChr4_pos {c : Cfg} (h : 0 < c.nChr8) : 0 < c.nChr4 := by
  unfold Cfg.nChr8 at h; unfold Cfg.nChr4; omega

end Sys2Proof.Machine
end

