-- ==== Sys2Proof/Laws/Memory.lean ====
section
/-! SUPPORT. The laws of byte arrays: read after write, and that every operation keeps the canonical form. -/

namespace Sys2Proof.Machine

@[simp] theorem Memory.read_nil (o : Nat) : Memory.read [] o = Config.unlistedByte := rfl

theorem Memory.read_cons (k : Nat) (v : Byte) (t : Memory) (o : Nat) :
    Memory.read ((k, v) :: t) o = if k = o then v else Memory.read t o := rfl

theorem Memory.wfFrom_cons {lo k : Nat} {v : Byte} {t : Memory} :
    Memory.wfFrom lo ((k, v) :: t) = true ↔
      lo ≤ k ∧ v ≠ Config.unlistedByte ∧ Memory.wfFrom (k + 1) t = true := by
  simp [Memory.wfFrom, and_assoc]

theorem Memory.wfFrom_mono {lo hi : Nat} {m : Memory} (h : Memory.wfFrom hi m = true) (hle : lo ≤ hi) :
    Memory.wfFrom lo m = true := by
  cases m with
  | nil => rfl
  | cons c t =>
    obtain ⟨k, v⟩ := c
    rw [Memory.wfFrom_cons] at h ⊢
    exact ⟨hle.trans h.1, h.2⟩

/-- An array listed from `lo` on reads the default byte below `lo`. -/
theorem Memory.read_of_lt {m : Memory} : ∀ {lo o : Nat}, Memory.wfFrom lo m = true → o < lo →
    Memory.read m o = Config.unlistedByte := by
  induction m with
  | nil => intros; rfl
  | cons c t ih =>
    obtain ⟨k, v⟩ := c
    intro lo o h ho
    rw [Memory.wfFrom_cons] at h
    rw [Memory.read_cons, if_neg (by omega)]
    exact ih h.2.2 (by omega)

theorem Memory.wfFrom_write {m : Memory} : ∀ {lo : Nat} (o : Nat) (v : Byte), Memory.wfFrom lo m = true →
    lo ≤ o → Memory.wfFrom lo (Memory.write m o v) = true := by
  induction m with
  | nil =>
    intro lo o v _ ho
    simp only [Memory.write]
    split
    · rfl
    · exact Memory.wfFrom_cons.2 ⟨ho, ‹_›, rfl⟩
  | cons c t ih =>
    obtain ⟨k, w⟩ := c
    intro lo o v h ho
    have hc := Memory.wfFrom_cons.1 h
    simp only [Memory.write]
    split
    · split
      · exact h
      · exact Memory.wfFrom_cons.2 ⟨ho, ‹_›, Memory.wfFrom_cons.2 ⟨by omega, hc.2⟩⟩
    · split
      · split
        · exact Memory.wfFrom_mono hc.2.2 (by omega)
        · exact Memory.wfFrom_cons.2 ⟨hc.1, ‹_›, hc.2.2⟩
      · exact Memory.wfFrom_cons.2 ⟨hc.1, hc.2.1, ih o v hc.2.2 (by omega)⟩

/-- A write keeps the canonical form. -/
theorem Memory.wf_write {m : Memory} (o : Nat) (v : Byte) (h : m.wf = true) :
    (Memory.write m o v).wf = true := Memory.wfFrom_write o v h (Nat.zero_le o)

theorem Memory.readFrom_write {m : Memory} : ∀ {lo : Nat} (o : Nat) (v : Byte) (p : Nat),
    Memory.wfFrom lo m = true →
    Memory.read (Memory.write m o v) p = if p = o then v else Memory.read m p := by
  induction m with
  | nil =>
    intro lo o v p _
    simp only [Memory.write]
    split
    · rw [Memory.read_nil]; split <;> simp_all
    · rw [Memory.read_cons]
      by_cases hp : p = o
      · rw [if_pos hp.symm, if_pos hp]
      · rw [if_neg (Ne.symm hp), if_neg hp]
  | cons c t ih =>
    obtain ⟨k, w⟩ := c
    intro lo o v p h
    have hc := Memory.wfFrom_cons.1 h
    have below : ∀ q, q ≤ k → Memory.read t q = Config.unlistedByte :=
      fun q hq => Memory.read_of_lt hc.2.2 (by omega)
    simp only [Memory.write]
    split
    · split
      · by_cases hp : p = o
        · subst hp; rw [Memory.read_cons, if_neg (by omega), below p (by omega), if_pos rfl]; simp_all
        · simp [hp]
      · rw [Memory.read_cons]
        by_cases hp : p = o
        · rw [if_pos hp.symm, if_pos hp]
        · rw [if_neg (Ne.symm hp), if_neg hp]
    · split
      · rename_i h1 h2
        subst h2
        split
        · by_cases hp : p = o
          · subst hp; rw [below p (le_refl p), if_pos rfl]; simp_all
          · rw [if_neg hp, Memory.read_cons, if_neg (Ne.symm hp)]
        · rw [Memory.read_cons, Memory.read_cons]
          by_cases hp : p = o
          · rw [if_pos hp.symm, if_pos hp]
          · rw [if_neg (Ne.symm hp), if_neg (Ne.symm hp), if_neg hp]
      · rw [Memory.read_cons, ih o v p hc.2.2, Memory.read_cons]
        by_cases hp : p = o
        · rw [if_pos hp, if_pos hp, if_neg (by omega)]
        · rw [if_neg hp, if_neg hp]

/-- A read after a write: the written byte at its offset, what stood there elsewhere. -/
theorem Memory.read_write {m : Memory} (h : m.wf = true) (o : Nat) (v : Byte) (p : Nat) :
    Memory.read (Memory.write m o v) p = if p = o then v else Memory.read m p :=
  Memory.readFrom_write o v p h

theorem Memory.below_cons {k : Nat} {v : Byte} {t : Memory} {n : Nat} :
    Memory.below ((k, v) :: t) n = true ↔ k < n ∧ Memory.below t n = true := by
  simp [Memory.below]

theorem Memory.below_write {m : Memory} {n : Nat} (o : Nat) (v : Byte) (h : m.below n = true) (ho : o < n) :
    (Memory.write m o v).below n = true := by
  induction m with
  | nil => simp only [Memory.write]; split <;> simp [Memory.below, ho]
  | cons c t ih =>
    obtain ⟨k, w⟩ := c
    have hc := Memory.below_cons.1 h
    simp only [Memory.write]
    split
    · split
      · exact h
      · exact Memory.below_cons.2 ⟨ho, h⟩
    · split
      · split
        · exact hc.2
        · exact Memory.below_cons.2 hc
      · exact Memory.below_cons.2 ⟨hc.1, ih hc.2⟩

/-- Equal contents are equal arrays: the form is canonical. -/
theorem Memory.ext_from {m : Memory} : ∀ {m' : Memory} {lo lo' : Nat}, Memory.wfFrom lo m = true →
    Memory.wfFrom lo' m' = true → (∀ o, Memory.read m o = Memory.read m' o) → m = m' := by
  induction m with
  | nil =>
    intro m' lo lo' _ h' hr
    cases m' with
    | nil => rfl
    | cons c t =>
      obtain ⟨k, v⟩ := c
      have := hr k
      rw [Memory.read_cons, if_pos rfl, Memory.read_nil] at this
      exact absurd this.symm (Memory.wfFrom_cons.1 h').2.1
  | cons c t ih =>
    obtain ⟨k, v⟩ := c
    intro m' lo lo' h h' hr
    have hc := Memory.wfFrom_cons.1 h
    cases m' with
    | nil =>
      have := hr k
      rw [Memory.read_cons, if_pos rfl, Memory.read_nil] at this
      exact absurd this hc.2.1
    | cons c' t' =>
      obtain ⟨k', v'⟩ := c'
      have hc' := Memory.wfFrom_cons.1 h'
      have hk : k = k' := by
        rcases Nat.lt_trichotomy k k' with hlt | heq | hgt
        · have := hr k
          rw [Memory.read_cons, if_pos rfl, Memory.read_cons, if_neg (by omega),
            Memory.read_of_lt hc'.2.2 (by omega)] at this
          exact absurd this hc.2.1
        · exact heq
        · have := hr k'
          rw [Memory.read_cons, if_neg (by omega), Memory.read_cons, if_pos rfl,
            Memory.read_of_lt hc.2.2 (by omega)] at this
          exact absurd this.symm hc'.2.1
      subst hk
      have hv : v = v' := by
        have := hr k
        rwa [Memory.read_cons, Memory.read_cons, if_pos rfl, if_pos rfl] at this
      subst hv
      refine congrArg _ (ih hc.2.2 hc'.2.2 fun o => ?_)
      by_cases ho : k = o
      · subst ho
        rw [Memory.read_of_lt hc.2.2 (by omega), Memory.read_of_lt hc'.2.2 (by omega)]
      · have := hr o
        rwa [Memory.read_cons, Memory.read_cons, if_neg ho, if_neg ho] at this

theorem Memory.ext {m m' : Memory} (h : m.wf = true) (h' : m'.wf = true)
    (hr : ∀ o, Memory.read m o = Memory.read m' o) : m = m' := Memory.ext_from h h' hr

/-! ## Arrays made from byte lists -/

theorem Memory.wfFrom_ofBytesFrom : ∀ (l : List Byte) (i : Nat),
    Memory.wfFrom i (Memory.ofBytesFrom i l) = true
  | [], _ => rfl
  | b :: t, i => by
    have ht := Memory.wfFrom_ofBytesFrom t (i + 1)
    simp only [Memory.ofBytesFrom]
    split
    · exact Memory.wfFrom_mono ht (by omega)
    · exact Memory.wfFrom_cons.2 ⟨le_refl i, ‹_›, ht⟩

@[simp] theorem Memory.wf_ofBytes (l : List Byte) : (Memory.ofBytes l).wf = true :=
  Memory.wfFrom_ofBytesFrom l 0

theorem Memory.below_ofBytesFrom : ∀ (l : List Byte) (i n : Nat), i + l.length ≤ n →
    Memory.below (Memory.ofBytesFrom i l) n = true
  | [], _, _, _ => rfl
  | b :: t, i, n, h => by
    have ht := Memory.below_ofBytesFrom t (i + 1) n (by simp at h; omega)
    simp only [Memory.ofBytesFrom]
    split
    · exact ht
    · simp only [Memory.below, List.all_cons, Bool.and_eq_true, decide_eq_true_eq] at ht ⊢
      exact ⟨by simp at h; omega, ht⟩

theorem Memory.below_ofBytes {l : List Byte} {n : Nat} (h : l.length ≤ n) :
    (Memory.ofBytes l).below n = true := Memory.below_ofBytesFrom l 0 n (by omega)

theorem Memory.read_ofBytesFrom : ∀ (l : List Byte) (i o : Nat), i ≤ o →
    Memory.read (Memory.ofBytesFrom i l) o = l.getD (o - i) Config.unlistedByte
  | [], _, _, _ => by simp [Memory.ofBytesFrom]
  | b :: t, i, o, h => by
    have hs : ∀ o, o < i + 1 → Memory.read (Memory.ofBytesFrom (i + 1) t) o = Config.unlistedByte :=
      fun o ho => Memory.read_of_lt (Memory.wfFrom_ofBytesFrom t (i + 1)) ho
    simp only [Memory.ofBytesFrom]
    rcases Nat.eq_or_lt_of_le h with rfl | hlt
    · split
      · rw [hs i (by omega)]; simp_all
      · rw [Memory.read_cons, if_pos rfl]; simp
    · have hd : o - i = (o - (i + 1)) + 1 := by omega
      have ht := Memory.read_ofBytesFrom t (i + 1) o hlt
      split
      · rw [ht, hd]; simp
      · rw [Memory.read_cons, if_neg (by omega), ht, hd]; simp

/-- Byte `o` of the array a list makes is the list's byte `o`. -/
theorem Memory.read_ofBytes (l : List Byte) (o : Nat) :
    Memory.read (Memory.ofBytes l) o = l.getD o Config.unlistedByte := by
  rw [Memory.ofBytes, Memory.read_ofBytesFrom l 0 o (Nat.zero_le o), Nat.sub_zero]

/-- A list of default bytes makes the empty array. -/
theorem Memory.ofBytes_replicate (n : Nat) :
    Memory.ofBytes (List.replicate n Config.unlistedByte) = [] := by
  refine Memory.ext (Memory.wf_ofBytes _) rfl fun o => ?_
  rw [Memory.read_ofBytes, Memory.read_nil, List.getD_eq_getElem?_getD, List.getElem?_replicate]
  split <;> rfl

@[simp] theorem Memory.length_toBytes (m : Memory) (n : Nat) : (Memory.toBytes m n).length = n := by
  simp [Memory.toBytes]

theorem Memory.getElem_toBytes (m : Memory) {n o : Nat} (h : o < n) :
    (Memory.toBytes m n)[o]? = some (Memory.read m o) := by
  simp [Memory.toBytes, h]

@[simp] theorem Memory.wf_nil : Memory.wf [] = true := rfl

@[simp] theorem Memory.below_nil (n : Nat) : Memory.below [] n = true := rfl

theorem Memory.below_mono {m : Memory} {a b : Nat} (h : m.below a = true) (hab : a ≤ b) :
    m.below b = true := by
  simp only [Memory.below, List.all_eq_true, decide_eq_true_eq] at h ⊢
  exact fun c hc => (h c hc).trans_le hab

end Sys2Proof.Machine
end

