-- ==== Sys2Proof/Laws/State.lean ====
section
/-! SUPPORT. One lemma per field per update of State, so that no proof unfolds a record update. -/

namespace Sys2Proof.Machine

variable (s : State)

@[simp] theorem State.setReply_cfg (r : Reply) : (s.setReply r).cfg = s.cfg := rfl
@[simp] theorem State.setReply_params (r : Reply) : (s.setReply r).params = s.params := rfl
@[simp] theorem State.setReply_prgRom (r : Reply) : (s.setReply r).prgRom = s.prgRom := rfl
@[simp] theorem State.setReply_chr (r : Reply) : (s.setReply r).chr = s.chr := rfl
@[simp] theorem State.setReply_prgRam (r : Reply) : (s.setReply r).prgRam = s.prgRam := rfl
@[simp] theorem State.setReply_regs (r : Reply) : (s.setReply r).regs = s.regs := rfl
@[simp] theorem State.setReply_inputs (r : Reply) : (s.setReply r).inputs = s.inputs := rfl
@[simp] theorem State.setReply_reply (r : Reply) : (s.setReply r).reply = r := rfl
@[simp] theorem State.setReply_started (r : Reply) : (s.setReply r).started = s.started := rfl

@[simp] theorem State.setRegs_cfg (r : Regs) : (s.setRegs r).cfg = s.cfg := rfl
@[simp] theorem State.setRegs_params (r : Regs) : (s.setRegs r).params = s.params := rfl
@[simp] theorem State.setRegs_prgRom (r : Regs) : (s.setRegs r).prgRom = s.prgRom := rfl
@[simp] theorem State.setRegs_chr (r : Regs) : (s.setRegs r).chr = s.chr := rfl
@[simp] theorem State.setRegs_prgRam (r : Regs) : (s.setRegs r).prgRam = s.prgRam := rfl
@[simp] theorem State.setRegs_regs (r : Regs) : (s.setRegs r).regs = r := rfl
@[simp] theorem State.setRegs_inputs (r : Regs) : (s.setRegs r).inputs = s.inputs := rfl
@[simp] theorem State.setRegs_reply (r : Regs) : (s.setRegs r).reply = s.reply := rfl
@[simp] theorem State.setRegs_started (r : Regs) : (s.setRegs r).started = s.started := rfl

@[simp] theorem State.setPrgRam_cfg (m : Memory) : (s.setPrgRam m).cfg = s.cfg := rfl
@[simp] theorem State.setPrgRam_params (m : Memory) : (s.setPrgRam m).params = s.params := rfl
@[simp] theorem State.setPrgRam_prgRom (m : Memory) : (s.setPrgRam m).prgRom = s.prgRom := rfl
@[simp] theorem State.setPrgRam_chr (m : Memory) : (s.setPrgRam m).chr = s.chr := rfl
@[simp] theorem State.setPrgRam_prgRam (m : Memory) : (s.setPrgRam m).prgRam = m := rfl
@[simp] theorem State.setPrgRam_regs (m : Memory) : (s.setPrgRam m).regs = s.regs := rfl
@[simp] theorem State.setPrgRam_inputs (m : Memory) : (s.setPrgRam m).inputs = s.inputs := rfl
@[simp] theorem State.setPrgRam_reply (m : Memory) : (s.setPrgRam m).reply = s.reply := rfl
@[simp] theorem State.setPrgRam_started (m : Memory) : (s.setPrgRam m).started = s.started := rfl

@[simp] theorem State.setChr_cfg (m : Memory) : (s.setChr m).cfg = s.cfg := rfl
@[simp] theorem State.setChr_params (m : Memory) : (s.setChr m).params = s.params := rfl
@[simp] theorem State.setChr_prgRom (m : Memory) : (s.setChr m).prgRom = s.prgRom := rfl
@[simp] theorem State.setChr_chr (m : Memory) : (s.setChr m).chr = m := rfl
@[simp] theorem State.setChr_prgRam (m : Memory) : (s.setChr m).prgRam = s.prgRam := rfl
@[simp] theorem State.setChr_regs (m : Memory) : (s.setChr m).regs = s.regs := rfl
@[simp] theorem State.setChr_inputs (m : Memory) : (s.setChr m).inputs = s.inputs := rfl
@[simp] theorem State.setChr_reply (m : Memory) : (s.setChr m).reply = s.reply := rfl
@[simp] theorem State.setChr_started (m : Memory) : (s.setChr m).started = s.started := rfl

@[simp] theorem State.take_cfg (ws : List TWord) : (s.take ws).cfg = s.cfg := rfl
@[simp] theorem State.take_params (ws : List TWord) : (s.take ws).params = s.params := rfl
@[simp] theorem State.take_prgRom (ws : List TWord) : (s.take ws).prgRom = s.prgRom := rfl
@[simp] theorem State.take_chr (ws : List TWord) : (s.take ws).chr = s.chr := rfl
@[simp] theorem State.take_prgRam (ws : List TWord) : (s.take ws).prgRam = s.prgRam := rfl
@[simp] theorem State.take_regs (ws : List TWord) : (s.take ws).regs = s.regs := rfl
@[simp] theorem State.take_inputs (ws : List TWord) : (s.take ws).inputs = ws := rfl
@[simp] theorem State.take_reply (ws : List TWord) : (s.take ws).reply = s.reply := rfl
@[simp] theorem State.take_started (ws : List TWord) : (s.take ws).started = true := rfl

@[simp] theorem State.setReply_variant (r : Reply) : (s.setReply r).variant = s.variant := rfl
@[simp] theorem State.setReply_mirroring (r : Reply) : (s.setReply r).mirroring = s.mirroring := rfl
@[simp] theorem State.setReply_irqPending (r : Reply) : (s.setReply r).irqPending = s.irqPending := rfl
@[simp] theorem State.setPrgRam_variant (m : Memory) : (s.setPrgRam m).variant = s.variant := rfl
@[simp] theorem State.setPrgRam_mirroring (m : Memory) : (s.setPrgRam m).mirroring = s.mirroring := rfl
@[simp] theorem State.setPrgRam_irqPending (m : Memory) : (s.setPrgRam m).irqPending = s.irqPending := rfl
@[simp] theorem State.setChr_variant (m : Memory) : (s.setChr m).variant = s.variant := rfl
@[simp] theorem State.setChr_mirroring (m : Memory) : (s.setChr m).mirroring = s.mirroring := rfl
@[simp] theorem State.setChr_irqPending (m : Memory) : (s.setChr m).irqPending = s.irqPending := rfl
@[simp] theorem State.take_variant (ws : List TWord) : (s.take ws).variant = s.variant := rfl
@[simp] theorem State.take_mirroring (ws : List TWord) : (s.take ws).mirroring = s.mirroring := rfl
@[simp] theorem State.take_irqPending (ws : List TWord) : (s.take ws).irqPending = s.irqPending := rfl

@[simp] theorem State.setRegs_variant (r : Regs) : (s.setRegs r).variant = r.variant := rfl

/-- A block with MMC1's registers is an MMC1, and so on for each variant. -/
theorem State.variant_of_regs {s : State} {r : Regs} (h : s.regs = r) : s.variant = r.variant := by
  simp [State.variant, h]

@[simp] theorem Regs.variant_nrom : Regs.nrom.variant = .nrom := rfl
@[simp] theorem Regs.variant_mmc1 (r : Mmc1) : (Regs.mmc1 r).variant = .mmc1 := rfl
@[simp] theorem Regs.variant_uxrom (r : Uxrom) : (Regs.uxrom r).variant = .uxrom := rfl
@[simp] theorem Regs.variant_cnrom (r : Cnrom) : (Regs.cnrom r).variant = .cnrom := rfl
@[simp] theorem Regs.variant_mmc3 (r : Mmc3) : (Regs.mmc3 r).variant = .mmc3 := rfl

/-- The variant tells which registers the state holds. -/
theorem State.regs_of_variant (s : State) :
    (s.variant = .nrom ∧ s.regs = .nrom) ∨ (s.variant = .mmc1 ∧ ∃ r, s.regs = .mmc1 r) ∨
    (s.variant = .uxrom ∧ ∃ r, s.regs = .uxrom r) ∨ (s.variant = .cnrom ∧ ∃ r, s.regs = .cnrom r) ∨
    (s.variant = .mmc3 ∧ ∃ r, s.regs = .mmc3 r) := by
  cases h : s.regs <;> simp [State.variant, h]

end Sys2Proof.Machine
end

