-- ==== Sys2Proof/Laws/Construct.lean ====
section
/-! SUPPORT. Construction, said once: what each field of a new block is, when the factory answers a block, and when
parsing answers an image. -/

namespace Sys2Proof.Machine

variable (v : Variant) (c : Cfg) (p : Params) (ri ci prg chr : List Byte)

@[simp] theorem construct_cfg : (construct v c p ri ci prg chr).cfg = c := rfl
@[simp] theorem construct_params : (construct v c p ri ci prg chr).params = p := rfl
@[simp] theorem construct_prgRom : (construct v c p ri ci prg chr).prgRom = Memory.ofBytes prg := rfl
@[simp] theorem construct_regs : (construct v c p ri ci prg chr).regs = regsReset c.mirroring v := rfl
@[simp] theorem construct_inputs : (construct v c p ri ci prg chr).inputs = [] := rfl
@[simp] theorem construct_reply : (construct v c p ri ci prg chr).reply = .nothing := rfl
@[simp] theorem construct_started : (construct v c p ri ci prg chr).started = false := rfl

@[simp] theorem regsReset_variant (m : Mirroring) : (regsReset m v).variant = v := by cases v <;> rfl

@[simp] theorem construct_variant : (construct v c p ri ci prg chr).variant = v := regsReset_variant v c.mirroring

theorem construct_chr_ram (h : c.chrIsRam = true) :
    (construct v c p ri ci prg chr).chr = Memory.ofBytes (ci.take Config.chrRamSize) := by
  simp [construct, h]

theorem construct_chr_rom (h : c.chrIsRam = false) :
    (construct v c p ri ci prg chr).chr = Memory.ofBytes chr := by
  simp [construct, h]

theorem construct_prgRam (h : hasPrgRam v p = true) :
    (construct v c p ri ci prg chr).prgRam = Memory.ofBytes (ri.take Config.prgRamSize) := by
  simp [construct, h]

theorem construct_prgRam_absent (h : hasPrgRam v p = false) :
    (construct v c p ri ci prg chr).prgRam = [] := by
  simp [construct, h]

/-! ## The configuration record of an image -/

variable (rom : RomImage)

@[simp] theorem RomImage.cfg_mapper : rom.cfg.mapper = rom.mapper := rfl
@[simp] theorem RomImage.cfg_submapper : rom.cfg.submapper = rom.submapper := rfl
@[simp] theorem RomImage.cfg_prgLen : rom.cfg.prgLen = rom.prg.length := rfl
@[simp] theorem RomImage.cfg_chrIsRam : rom.cfg.chrIsRam = rom.chr.isEmpty := rfl
@[simp] theorem RomImage.cfg_mirroring : rom.cfg.mirroring = rom.mirroring := rfl
@[simp] theorem RomImage.cfg_battery : rom.cfg.battery = rom.battery := rfl
@[simp] theorem RomImage.cfg_fourScreen : rom.cfg.fourScreen = rom.fourScreen := rfl
@[simp] theorem RomImage.cfg_trainer : rom.cfg.trainer = rom.trainer := rfl

theorem RomImage.cfg_chrLen : rom.cfg.chrLen = if rom.chr = [] then Config.chrRamSize else rom.chr.length := by
  simp [RomImage.cfg]

/-! ## The factory and the parser -/

variable {p ri ci rom}

/-- The factory answers a block exactly for a known mapper number and a configuration that passes the check. -/
theorem create_block {s : State} : create p ri ci rom = .block s ↔
    ∃ v, variantOf rom.mapper = some v ∧ configOk v rom.cfg = true ∧
      s = construct v rom.cfg p ri ci rom.prg rom.chr := by
  constructor
  · intro h
    unfold create at h
    split at h
    · cases h
    · rename_i v hv
      split at h
      · cases h; exact ⟨v, hv, ‹_›, rfl⟩
      · cases h
  · rintro ⟨v, hv, hc, rfl⟩
    simp [create, hv, hc]

/-- Parsing answers an image exactly when every check passes. -/
theorem parse_ok {image : List Byte} {rom : RomImage} : parse image = .ok rom ↔
    image.take 4 = magic ∧ Config.headerSize ≤ image.length ∧ (formatBits image = 0 ∨ formatBits image = 2) ∧
      image.length = declaredLength image ∧ rom = parseBody image := by
  unfold parse
  split
  · rename_i h
    simp only [reduceCtorEq, false_iff]
    rintro ⟨h1, h2, -⟩
    rcases h with h | h
    · simp only [Config.headerSize] at h2; omega
    · exact h h1
  · rename_i h
    rw [not_or, not_not] at h
    split
    · simp only [reduceCtorEq, false_iff]
      rintro ⟨-, h2, -⟩; omega
    · split
      · simp only [reduceCtorEq, false_iff]
        rintro ⟨-, -, h3, -⟩
        simp_all
      · split
        · simp only [reduceCtorEq, false_iff]
          rintro ⟨-, -, -, h4, -⟩; contradiction
        · rename_i h2 h3 h4
          simp only [Except.ok.injEq]
          refine ⟨fun e => ⟨h.2, by omega, by by_contra hc; exact h3 (not_or.1 hc), by simpa using h4, e.symm⟩,
            fun e => e.2.2.2.2.symm⟩

/-! ## Only the first 16 bytes of an image are its header -/

theorem imageByte_append {h : List Byte} (t : List Byte) {i : Nat} (hi : i < h.length) :
    imageByte (h ++ t) i = imageByte h i := by
  simp [imageByte, List.getElem?_append_left hi]

theorem headerBytes_append {h : List Byte} (t : List Byte) (hh : h.length = Config.headerSize) :
    formatBits (h ++ t) = formatBits h ∧ headerMapper (h ++ t) = headerMapper h ∧
    headerSubmapper (h ++ t) = headerSubmapper h ∧ headerMirroring (h ++ t) = headerMirroring h ∧
    headerBattery (h ++ t) = headerBattery h ∧ headerFourScreen (h ++ t) = headerFourScreen h ∧
    headerTrainer (h ++ t) = headerTrainer h ∧ headerPrgSize (h ++ t) = headerPrgSize h ∧
    headerChrSize (h ++ t) = headerChrSize h ∧ declaredLength (h ++ t) = declaredLength h := by
  have hb : ∀ i, i < 16 → imageByte (h ++ t) i = imageByte h i := fun i hi => imageByte_append t (hh ▸ hi)
  have hf : formatBits (h ++ t) = formatBits h := by rw [formatBits, formatBits, hb 7 (by decide)]
  have hx : isExtended (h ++ t) = isExtended h := by rw [isExtended, isExtended, hf]
  have h4 : headerFourScreen (h ++ t) = headerFourScreen h := by
    rw [headerFourScreen, headerFourScreen, hb 6 (by decide)]
  have ht : headerTrainer (h ++ t) = headerTrainer h := by rw [headerTrainer, headerTrainer, hb 6 (by decide)]
  have hP : headerPrgSize (h ++ t) = headerPrgSize h := by
    rw [headerPrgSize, headerPrgSize, hx, hb 9 (by decide), hb 4 (by decide)]
  have hC : headerChrSize (h ++ t) = headerChrSize h := by
    rw [headerChrSize, headerChrSize, hx, hb 9 (by decide), hb 5 (by decide)]
  refine ⟨hf, ?_, ?_, ?_, ?_, h4, ht, hP, hC, ?_⟩
  · unfold headerMapper; rw [hx, hb 8 (by decide), hb 7 (by decide), hb 6 (by decide)]
  · unfold headerSubmapper; rw [hx, hb 8 (by decide)]
  · unfold headerMirroring; rw [h4, hb 6 (by decide)]
  · unfold headerBattery; rw [hb 6 (by decide)]
  · unfold declaredLength trainerLength; rw [ht, hP, hC]

/-- Parsing a header and what follows it. -/
theorem parse_append {h : List Byte} (t : List Byte) (hh : h.length = Config.headerSize) :
    parse (h ++ t) =
      if h.take 4 ≠ magic then .error .invalidMagic
      else if formatBits h ≠ 0 ∧ formatBits h ≠ 2 then .error .unsupportedFormat
      else if Config.headerSize + t.length ≠ declaredLength h then .error .sizeMismatch
      else .ok (parseBody (h ++ t)) := by
  have hl : (h ++ t).length = Config.headerSize + t.length := by rw [List.length_append, hh]
  have h4 : (h ++ t).take 4 = h.take 4 := List.take_append_of_le_length (by rw [hh]; decide)
  have h16 : Config.headerSize = 16 := rfl
  obtain ⟨hf, -, -, -, -, -, -, -, -, hd⟩ := headerBytes_append t hh
  unfold parse
  rw [hf, hd, h4, hl]
  by_cases hm : h.take 4 = magic
  · rw [if_neg (by rw [hm]; simp; omega), if_neg (by omega), if_neg (not_not.2 hm)]
  · rw [if_pos (.inr hm), if_pos hm]

end Sys2Proof.Machine
end

