-- ==== Sys2Proof/Laws/Decode.lean ====
section
/-! SUPPORT. The fields of a word, the region of an address and the rows of the table, each said once. -/

namespace Sys2Proof

@[simp] theorem opField_tword (op : BitVec 3) (a : Addr) (d : Byte) : opField (tword op a d) = op := by
  apply BitVec.eq_of_getLsbD_eq
  intro i hi
  simp only [opField, tword, BitVec.getLsbD_extractLsb', BitVec.getLsbD_append]
  have h1 : ¬ 24 + i < 8 := by omega
  have h2 : ¬ 24 + i - 8 < 16 := by omega
  simp [hi, h1, h2, show 24 + i - 8 - 16 = i by omega]

@[simp] theorem addrField_tword (op : BitVec 3) (a : Addr) (d : Byte) : addrField (tword op a d) = a := by
  apply BitVec.eq_of_getLsbD_eq
  intro i hi
  simp only [addrField, tword, BitVec.getLsbD_extractLsb', BitVec.getLsbD_append]
  have h1 : ¬ 8 + i < 8 := by omega
  simp [hi, h1]

@[simp] theorem dataField_tword (op : BitVec 3) (a : Addr) (d : Byte) : dataField (tword op a d) = d := by
  apply BitVec.eq_of_getLsbD_eq
  intro i hi
  simp only [dataField, tword, BitVec.getLsbD_extractLsb', BitVec.getLsbD_append]
  simp [hi]

/-- A word is its three fields. -/
theorem tword_fields (w : TWord) : tword (opField w) (addrField w) (dataField w) = w := by
  apply BitVec.eq_of_getLsbD_eq
  intro i hi
  simp only [opField, addrField, dataField, tword, BitVec.getLsbD_extractLsb', BitVec.getLsbD_append]
  by_cases h8 : i < 8
  · simp [h8]
  · by_cases h24 : i - 8 < 16
    · simp [h8, h24, show 8 + (i - 8) = i by omega]
    · simp [h8, h24, show 24 + (i - 8 - 16) = i by omega]
      intro; omega

/-- The region is the address divided by 8KB. -/
theorem region_toNat (a : Addr) : (region a).toNat = a.toNat / 8192 := by
  have := a.isLt
  simp only [region, BitVec.extractLsb'_toNat, Nat.shiftRight_eq_div_pow]
  omega

theorem inWindow_iff {lo hi : Nat} {a : Addr} : inWindow lo hi a = true ↔ lo ≤ a.toNat ∧ a.toNat ≤ hi := by
  simp [inWindow]

/-! ## The decoder, op by op -/

variable {v : Variant} {w : TWord}

theorem decode_cpuRead (h : opField w = 0) : decode v w = decodeCpuRead v (addrField w) := by rw [decode, h]; rfl
theorem decode_cpuWrite (h : opField w = 1) : decode v w = decodeCpuWrite v (addrField w) (dataField w) := by
  rw [decode, h]; rfl
theorem decode_ppuRead (h : opField w = 2) : decode v w = decodePpuRead v (addrField w) := by rw [decode, h]; rfl
theorem decode_ppuWrite (h : opField w = 3) : decode v w = decodePpuWrite v (addrField w) (dataField w) := by
  rw [decode, h]; rfl
theorem decode_a12 (h : opField w = 4) : decode v w = decodeA12 v := by rw [decode, h]; rfl
theorem decode_ack (h : opField w = 5) : decode v w = decodeAck v := by rw [decode, h]; rfl
theorem decode_ntMap (h : opField w = 6) : decode v w = .allNtMap ((addrField w).extractLsb' 0 12) := by
  rw [decode, h]; rfl
theorem decode_reserved (h : opField w = 7) : decode v w = .allReserved := by rw [decode, h]; rfl

/-- The eight ops (R91). -/
theorem opField_cases (w : TWord) : opField w = 0 ∨ opField w = 1 ∨ opField w = 2 ∨ opField w = 3 ∨
    opField w = 4 ∨ opField w = 5 ∨ opField w = 6 ∨ opField w = 7 := by
  generalize opField w = o; revert o; decide

/-! A CPU access by its address (R93). -/

theorem decodeCpuRead_unmapped {a : Addr} (h : a.toNat < 0x6000) :
    decodeCpuRead v a = .allCpuUnmappedRead a := by
  have hr := region_toNat a
  have hn : (region a).toNat < 3 := by omega
  unfold decodeCpuRead
  generalize (region a).toNat = n at *
  interval_cases n <;> rfl

theorem decodeCpuRead_ram {a : Addr} (h : 0x6000 ≤ a.toNat) (h' : a.toNat < 0x8000) :
    decodeCpuRead v a = decodeRamRead v a := by
  have hr := region_toNat a
  have hn : (region a).toNat = 3 := by omega
  rw [decodeCpuRead, hn]; rfl

theorem decodeCpuRead_rom {a : Addr} (h : 0x8000 ≤ a.toNat) : decodeCpuRead v a = decodeRomRead v a := by
  have hr := region_toNat a
  have hn : 4 ≤ (region a).toNat := by omega
  have h8 := (region a).isLt
  unfold decodeCpuRead
  generalize (region a).toNat = n at *
  interval_cases n <;> rfl

theorem decodeCpuWrite_unmapped {a : Addr} {d : Byte} (h : a.toNat < 0x6000) :
    decodeCpuWrite v a d = .allCpuUnmappedWrite a d := by
  have hr := region_toNat a
  have hn : (region a).toNat < 3 := by omega
  unfold decodeCpuWrite
  generalize (region a).toNat = n at *
  interval_cases n <;> rfl

theorem decodeCpuWrite_ram {a : Addr} {d : Byte} (h : 0x6000 ≤ a.toNat) (h' : a.toNat < 0x8000) :
    decodeCpuWrite v a d = decodeRamWrite v a d := by
  have hr := region_toNat a
  have hn : (region a).toNat = 3 := by omega
  rw [decodeCpuWrite, hn]; rfl

theorem decodeCpuWrite_rom {a : Addr} {d : Byte} (h : 0x8000 ≤ a.toNat) :
    decodeCpuWrite v a d = decodeRomWrite v a d := by
  have hr := region_toNat a
  have hn : 4 ≤ (region a).toNat := by omega
  have h8 := (region a).isLt
  unfold decodeCpuWrite
  generalize (region a).toNat = n at *
  interval_cases n <;> rfl

theorem decodePpuRead_chr {a : Addr} (h : a.toNat < 0x2000) : decodePpuRead v a = decodeChrRead v a := by
  have hr := region_toNat a
  have hn : (region a).toNat = 0 := by omega
  rw [decodePpuRead, hn]; rfl

theorem decodePpuRead_unmapped {a : Addr} (h : 0x2000 ≤ a.toNat) : decodePpuRead v a = .allPpuUnmappedRead a := by
  have hr := region_toNat a
  have hn : 1 ≤ (region a).toNat := by omega
  have h8 := (region a).isLt
  unfold decodePpuRead
  generalize (region a).toNat = n at *
  interval_cases n <;> rfl

theorem decodePpuWrite_chr {a : Addr} {d : Byte} (h : a.toNat < 0x2000) :
    decodePpuWrite v a d = decodeChrWrite v a d := by
  have hr := region_toNat a
  have hn : (region a).toNat = 0 := by omega
  rw [decodePpuWrite, hn]; rfl

theorem decodePpuWrite_unmapped {a : Addr} {d : Byte} (h : 0x2000 ≤ a.toNat) :
    decodePpuWrite v a d = .allPpuUnmappedWrite a d := by
  have hr := region_toNat a
  have hn : 1 ≤ (region a).toNat := by omega
  have h8 := (region a).isLt
  unfold decodePpuWrite
  generalize (region a).toNat = n at *
  interval_cases n <;> rfl

/-! ## Masks -/

theorem tword_and (op op' : BitVec 3) (a a' : Addr) (d d' : Byte) :
    tword op a d &&& tword op' a' d' = tword (op &&& op') (a &&& a') (d &&& d') := by
  apply BitVec.eq_of_getLsbD_eq
  intro i hi
  simp only [tword, BitVec.getLsbD_and, BitVec.getLsbD_append]
  split
  · rfl
  · split <;> rfl

theorem tword_inj {op op' : BitVec 3} {a a' : Addr} {d d' : Byte} :
    tword op a d = tword op' a' d' ↔ op = op' ∧ a = a' ∧ d = d' := by
  constructor
  · intro h
    exact ⟨by simpa using congrArg opField h, by simpa using congrArg addrField h,
      by simpa using congrArg dataField h⟩
  · rintro ⟨rfl, rfl, rfl⟩; rfl

/-- A word belongs to a row when each of its fields does. -/
theorem Row.takes_iff (r : Row) (w : TWord) :
    r.takes w = true ↔ opField w &&& opField r.mask = opField r.pattern ∧
      addrField w &&& addrField r.mask = addrField r.pattern ∧
      dataField w &&& dataField r.mask = dataField r.pattern := by
  rw [Row.takes, beq_iff_eq]
  conv_lhs => rw [← tword_fields w, ← tword_fields r.mask, ← tword_fields r.pattern, tword_and, tword_inj]

/-- A mask of high address bits tests the address divided by the window's size. -/
theorem and_high_mask (a : Addr) (k : Nat) (hk : k ≤ 16) :
    (a &&& (BitVec.allOnes 16 <<< k)).toNat = a.toNat / 2 ^ k * 2 ^ k := by
  have : a &&& (BitVec.allOnes 16 <<< k) = (a >>> k) <<< k := by
    apply BitVec.eq_of_getLsbD_eq
    intro i hi
    simp only [BitVec.getLsbD_and, BitVec.getLsbD_shiftLeft, BitVec.getLsbD_ushiftRight,
      BitVec.getLsbD_allOnes]
    by_cases h : i < k
    · simp [h]
    · simp [h, hi, show k + (i - k) = i by omega]; intro; omega
  rw [this, BitVec.toNat_shiftLeft, BitVec.toNat_ushiftRight, Nat.shiftLeft_eq, Nat.shiftRight_eq_div_pow,
    Nat.mod_eq_of_lt]
  exact lt_of_le_of_lt (Nat.div_mul_le_self _ _) a.isLt

end Sys2Proof
end

