-- ==== Sys2Proof/Laws/Ops.lean ====
section
/-! SUPPORT. One spec lemma per shared operation: what it answers, and all it can do when it answers a next state. -/

namespace Sys2Proof.Machine

variable {s t : State}

/-! ## Answers -/

@[simp] theorem State.done_eq (s : State) : s.done = .next (s.setReply .nothing) := rfl
@[simp] theorem State.answer_eq (s : State) (b : Byte) : s.answer b = .next (s.setReply (.byte b)) := rfl
@[simp] theorem State.answerOpenBus_eq (s : State) :
    s.answerOpenBus = .next (s.setReply (.byte s.params.openBus)) := rfl
@[simp] theorem State.readPrgRam_eq (s : State) (o : Nat) :
    s.readPrgRam o = .next (s.setReply (.byte (Memory.read s.prgRam o))) := rfl
@[simp] theorem State.writePrgRam_eq (s : State) (o : Nat) (v : Byte) :
    s.writePrgRam o v = .next ((s.setPrgRam (Memory.write s.prgRam o v)).setReply .nothing) := rfl

/-! ## Storage -/

theorem State.prgByte?_of_lt {o : Nat} (h : o < s.cfg.prgLen) :
    s.prgByte? o = some (Memory.read s.prgRom o) := if_pos h

theorem State.readPrgRom_of_lt {o : Nat} (h : o < s.cfg.prgLen) :
    s.readPrgRom o = .next (s.setReply (.byte (Memory.read s.prgRom o))) := by
  simp [State.readPrgRom, State.prgByte?_of_lt h]

/-- All a PRG-ROM read can do. -/
theorem State.readPrgRom_next {o : Nat} (h : s.readPrgRom o = .next t) :
    o < s.cfg.prgLen ∧ t = s.setReply (.byte (Memory.read s.prgRom o)) := by
  by_cases ho : o < s.cfg.prgLen
  · rw [State.readPrgRom_of_lt ho] at h; cases h; exact ⟨ho, rfl⟩
  · simp [State.readPrgRom, State.prgByte?, ho] at h

theorem State.readChr_of_lt {o : Nat} (h : o < s.cfg.chrLen) :
    s.readChr o = .next (s.setReply (.byte (Memory.read s.chr o))) := if_pos h

/-- All a CHR read can do. -/
theorem State.readChr_next {o : Nat} (h : s.readChr o = .next t) :
    o < s.cfg.chrLen ∧ t = s.setReply (.byte (Memory.read s.chr o)) := by
  by_cases ho : o < s.cfg.chrLen
  · rw [State.readChr_of_lt ho] at h; cases h; exact ⟨ho, rfl⟩
  · simp [State.readChr, ho] at h

theorem State.writeChr_ram {o : Nat} {v : Byte} (hr : s.cfg.chrIsRam = true) (h : o < s.cfg.chrLen) :
    s.writeChr o v = .next ((s.setChr (Memory.write s.chr o v)).setReply .nothing) := by
  simp [State.writeChr, hr, h]

theorem State.writeChr_rom {o : Nat} {v : Byte} (hr : s.cfg.chrIsRam = false) :
    s.writeChr o v = .next (s.setReply .nothing) := by
  simp [State.writeChr, hr]

/-- All a CHR write can do: one byte of CHR-RAM, or nothing. -/
theorem State.writeChr_next {o : Nat} {v : Byte} (h : s.writeChr o v = .next t) :
    (s.cfg.chrIsRam = true ∧ o < s.cfg.chrLen ∧
      t = (s.setChr (Memory.write s.chr o v)).setReply .nothing) ∨
    (s.cfg.chrIsRam = false ∧ t = s.setReply .nothing) := by
  cases hr : s.cfg.chrIsRam with
  | false => rw [State.writeChr_rom hr] at h; cases h; exact .inr ⟨rfl, rfl⟩
  | true =>
    by_cases ho : o < s.cfg.chrLen
    · rw [State.writeChr_ram hr ho] at h; cases h; exact .inl ⟨rfl, ho, rfl⟩
    · simp [State.writeChr, hr, ho] at h

/-! ## Registers -/

theorem State.withNrom_of {f : Unit → Result} (h : s.regs = .nrom) : s.withNrom f = f () := by
  simp [State.withNrom, h]

theorem State.withNrom_next {f : Unit → Result} (h : s.withNrom f = .next t) :
    s.regs = .nrom ∧ f () = .next t := by
  unfold State.withNrom at h; split at h
  · exact ⟨‹_›, h⟩
  · cases h

theorem State.withNrom_foreign {f : Unit → Result} (h : s.variant ≠ .nrom) :
    s.withNrom f = .refused .wrongVariant := by
  cases hr : s.regs <;> simp_all [State.withNrom, State.variant]

theorem State.withMmc1_of {f : Mmc1 → Result} {r : Mmc1} (h : s.regs = .mmc1 r) : s.withMmc1 f = f r := by
  simp [State.withMmc1, h]

theorem State.withMmc1_next {f : Mmc1 → Result} (h : s.withMmc1 f = .next t) :
    ∃ r, s.regs = .mmc1 r ∧ f r = .next t := by
  unfold State.withMmc1 at h; split at h
  · exact ⟨_, ‹_›, h⟩
  · cases h

theorem State.withMmc1_foreign {f : Mmc1 → Result} (h : s.variant ≠ .mmc1) :
    s.withMmc1 f = .refused .wrongVariant := by
  cases hr : s.regs <;> simp_all [State.withMmc1, State.variant]

theorem State.withUxrom_of {f : Uxrom → Result} {r : Uxrom} (h : s.regs = .uxrom r) : s.withUxrom f = f r := by
  simp [State.withUxrom, h]

theorem State.withUxrom_next {f : Uxrom → Result} (h : s.withUxrom f = .next t) :
    ∃ r, s.regs = .uxrom r ∧ f r = .next t := by
  unfold State.withUxrom at h; split at h
  · exact ⟨_, ‹_›, h⟩
  · cases h

theorem State.withUxrom_foreign {f : Uxrom → Result} (h : s.variant ≠ .uxrom) :
    s.withUxrom f = .refused .wrongVariant := by
  cases hr : s.regs <;> simp_all [State.withUxrom, State.variant]

theorem State.withCnrom_of {f : Cnrom → Result} {r : Cnrom} (h : s.regs = .cnrom r) : s.withCnrom f = f r := by
  simp [State.withCnrom, h]

theorem State.withCnrom_next {f : Cnrom → Result} (h : s.withCnrom f = .next t) :
    ∃ r, s.regs = .cnrom r ∧ f r = .next t := by
  unfold State.withCnrom at h; split at h
  · exact ⟨_, ‹_›, h⟩
  · cases h

theorem State.withCnrom_foreign {f : Cnrom → Result} (h : s.variant ≠ .cnrom) :
    s.withCnrom f = .refused .wrongVariant := by
  cases hr : s.regs <;> simp_all [State.withCnrom, State.variant]

theorem State.withMmc3_of {f : Mmc3 → Result} {r : Mmc3} (h : s.regs = .mmc3 r) : s.withMmc3 f = f r := by
  simp [State.withMmc3, h]

theorem State.withMmc3_next {f : Mmc3 → Result} (h : s.withMmc3 f = .next t) :
    ∃ r, s.regs = .mmc3 r ∧ f r = .next t := by
  unfold State.withMmc3 at h; split at h
  · exact ⟨_, ‹_›, h⟩
  · cases h

theorem State.withMmc3_foreign {f : Mmc3 → Result} (h : s.variant ≠ .mmc3) :
    s.withMmc3 f = .refused .wrongVariant := by
  cases hr : s.regs <;> simp_all [State.withMmc3, State.variant]

theorem State.mmc3Update_of {f : Mmc3 → Mmc3} {r : Mmc3} (h : s.regs = .mmc3 r) :
    s.mmc3Update f = .next ((s.setRegs (.mmc3 (f r))).setReply .nothing) := by
  simp [State.mmc3Update, State.withMmc3_of h]

/-- All a register write of MMC3 can do. -/
theorem State.mmc3Update_next {f : Mmc3 → Mmc3} (h : s.mmc3Update f = .next t) :
    ∃ r, s.regs = .mmc3 r ∧ t = (s.setRegs (.mmc3 (f r))).setReply .nothing := by
  obtain ⟨r, hr, h⟩ := State.withMmc3_next h
  exact ⟨r, hr, by cases h; rfl⟩

theorem State.mmc1Serial_of {d : Byte} {c : Mmc1 → BitVec 5 → Mmc1} {r : Mmc1} (h : s.regs = .mmc1 r) :
    s.mmc1Serial d c = .next ((s.setRegs (.mmc1 (r.serialStep d c))).setReply .nothing) := by
  simp [State.mmc1Serial, State.withMmc1_of h]

/-- All a serial write of MMC1 can do. -/
theorem State.mmc1Serial_next {d : Byte} {c : Mmc1 → BitVec 5 → Mmc1} (h : s.mmc1Serial d c = .next t) :
    ∃ r, s.regs = .mmc1 r ∧ t = (s.setRegs (.mmc1 (r.serialStep d c))).setReply .nothing := by
  obtain ⟨r, hr, h⟩ := State.withMmc1_next h
  exact ⟨r, hr, by cases h; rfl⟩

theorem State.selectUxromBank_of {d : Byte} (h : s.cfg.nPrg16 ≠ 0) :
    s.selectUxromBank d =
      .next ((s.setRegs (.uxrom ⟨BitVec.ofNat 8 (norm d.toNat s.cfg.nPrg16)⟩)).setReply .nothing) := if_neg h

/-- All a bank select of UxROM can do. -/
theorem State.selectUxromBank_next {d : Byte} (h : s.selectUxromBank d = .next t) :
    s.cfg.nPrg16 ≠ 0 ∧
      t = (s.setRegs (.uxrom ⟨BitVec.ofNat 8 (norm d.toNat s.cfg.nPrg16)⟩)).setReply .nothing := by
  by_cases h0 : s.cfg.nPrg16 = 0
  · simp [State.selectUxromBank, h0] at h
  · rw [State.selectUxromBank_of h0] at h; cases h; exact ⟨h0, rfl⟩

/-! ## The step -/

theorem step_idle (h : s.inputs = []) : step s = .next s := by
  simp [step, State.fetch, h]

theorem step_cons {w : TWord} {ws : List TWord} (h : s.inputs = w :: ws) :
    step s = exec (decode s.variant w) (s.take ws) := by
  simp [step, State.fetch, h]

/-- All a step can do: nothing, when no transaction waits, or what the oldest one does. -/
theorem step_next (h : step s = .next t) :
    (s.inputs = [] ∧ t = s) ∨
    ∃ w ws, s.inputs = w :: ws ∧ exec (decode s.variant w) (s.take ws) = .next t := by
  cases hi : s.inputs with
  | nil => rw [step_idle hi] at h; cases h; exact .inl ⟨rfl, rfl⟩
  | cons w ws => rw [step_cons hi] at h; exact .inr ⟨w, ws, rfl, h⟩

end Sys2Proof.Machine
end

