-- ==== Sys2Proof/Laws/Exec.lean ====
section
/-! SUPPORT. All a transaction can do when it answers a next state, said once: it answers the host, it replaces the
variant's registers by registers the block can hold, or it writes one byte of PRG-RAM or of CHR-RAM. -/

namespace Sys2Proof.Machine

variable {s t : State}

/-! ## The registers stay ones the block can hold -/

theorem regsInv_mmc1 {c : Cfg} {r : Mmc1} :
    regsInv c (.mmc1 r) = true ↔ r.count.toNat ≤ 4 ∧ r.shift.toNat < 2 ^ r.count.toNat := by
  simp [regsInv]

theorem regsInv_uxrom {c : Cfg} {r : Uxrom} : regsInv c (.uxrom r) = true ↔ r.bank.toNat < c.nPrg16 := by
  simp [regsInv]

theorem regsInv_cnrom {c : Cfg} {r : Cnrom} : regsInv c (.cnrom r) = true ↔ r.chrBank.toNat < c.nChr8 := by
  simp [regsInv]

theorem regsInv_mmc3 {c : Cfg} {r : Mmc3} : regsInv c (.mmc3 r) = true ↔ r.prevA12 = false := by
  simp [regsInv]

/-- A reduced bank number fits in 8 bits. -/
theorem ofNat_norm (d : Byte) (n : Nat) : (BitVec.ofNat 8 (norm d.toNat n)).toNat = norm d.toNat n := by
  rw [BitVec.toNat_ofNat, Nat.mod_eq_of_lt]
  exact (Nat.mod_le _ _).trans_lt d.isLt

/-- The accumulator after a serial write holds no bit past the new count. -/
theorem Mmc1.accumulate_lt {r : Mmc1} (d : Byte)
    (hs : r.shift.toNat < 2 ^ r.count.toNat) : (r.accumulate d).toNat < 2 ^ (r.count.toNat + 1) := by
  unfold Mmc1.accumulate
  rw [BitVec.toNat_or]
  refine Nat.or_lt_two_pow (hs.trans_le (Nat.pow_le_pow_right (by decide) (by omega))) ?_
  rw [BitVec.toNat_shiftLeft, BitVec.toNat_setWidth, BitVec.extractLsb'_toNat, Nat.shiftLeft_eq]
  refine (Nat.mod_le _ _).trans_lt ?_
  have h1 : d.toNat >>> 0 % 2 ^ 1 % 2 ^ 5 ≤ 1 := by omega
  have h2 := Nat.mul_le_mul_right (2 ^ r.count.toNat) h1
  have h3 : 0 < 2 ^ r.count.toNat := Nat.two_pow_pos _
  have h4 : 2 ^ (r.count.toNat + 1) = 2 ^ r.count.toNat * 2 := Nat.pow_succ ..
  omega

/-- What a serial write leaves of the counter and the accumulator: the next count and the accumulated bits, or
nothing when the sequence is complete. -/
theorem Mmc1.serialStep_inv {r : Mmc1} {d : Byte} {f : Mmc1 → BitVec 5 → Mmc1} (hc : r.count.toNat ≤ 4)
    (hs : r.shift.toNat < 2 ^ r.count.toNat) :
    (r.serialStep d f).count.toNat ≤ 4 ∧
      (r.serialStep d f).shift.toNat < 2 ^ (r.serialStep d f).count.toNat := by
  unfold Mmc1.serialStep
  split
  · simp
  · rename_i h
    have h4 : r.count.toNat ≠ 4 := fun h4 => h (BitVec.eq_of_toNat_eq h4)
    have h1 : (r.count + 1).toNat = r.count.toNat + 1 := by
      rw [BitVec.toNat_add]; show (_ + 1) % 8 = _; omega
    simp only [h1]
    exact ⟨by omega, Mmc1.accumulate_lt d hs⟩

theorem Mmc3.a12Rise_prevA12 (r : Mmc3) : r.a12Rise.prevA12 = r.prevA12 := by
  unfold Mmc3.a12Rise Mmc3.zeroTest Mmc3.countEdge Mmc3.raiseIrq
  split <;> split <;> rfl

/-! ## All a transaction can do -/

/-- The operations that write a register. -/
def writesRegs : Instr → Bool
  | .mmc1Reset _ _ | .mmc1SerialControl _ _ | .mmc1SerialChr0 _ _ | .mmc1SerialChr1 _ _ | .mmc1SerialPrg _ _ => true
  | .uxromBankSelect _ _ | .cnromChrBankSelect _ _ => true
  | .mmc3BankSelect _ _ | .mmc3BankData _ _ | .mmc3Mirroring _ _ | .mmc3PrgRamProtect _ _ => true
  | .mmc3IrqLatch _ _ | .mmc3IrqReload _ _ | .mmc3IrqDisable _ _ | .mmc3IrqEnable _ _ => true
  | .mmc3A12Rise | .mmc3IrqAck => true
  | _ => false

/-- The operation writes `v` into PRG-RAM through address `a`. -/
def IsPrgRamWrite (i : Instr) (a : Addr) (v : Byte) : Prop :=
  i = .nromPrgRamWrite a v ∨ i = .mmc1PrgRamWrite a v ∨ i = .mmc3PrgRamWrite a v

/-- The operation writes `v` at offset `o` of CHR storage through address `a`, in a block with these registers. -/
def IsChrWrite (s : State) (i : Instr) (a : Addr) (v : Byte) (o : Nat) : Prop :=
  (i = .nromChrWrite a v ∧ o = fixedChrOffset a) ∨
  (∃ r, s.regs = .mmc1 r ∧ i = .mmc1ChrWrite a v ∧ o = r.chrOffset s.cfg a) ∨
  (i = .uxromChrWrite a v ∧ o = fixedChrOffset a) ∨
  (∃ r, s.regs = .cnrom r ∧ i = .cnromChrWrite a v ∧ o = r.chrOffset a) ∨
  (∃ r, s.regs = .mmc3 r ∧ i = .mmc3ChrWrite a v ∧ o = r.chrOffset s.cfg a)

/-- What the transaction `i` that answers a next state has done to the block. -/
inductive Effect (i : Instr) (s : State) : State → Prop
  /-- Nothing but the answer. -/
  | answered (r : Reply) : Effect i s (s.setReply r)
  /-- New registers of the same variant, which the block can hold if it could hold the old ones. -/
  | registers (q : Regs) (hw : writesRegs i = true) (hv : q.variant = s.variant)
      (hi : regsInv s.cfg s.regs = true → regsInv s.cfg q = true) :
      Effect i s ((s.setRegs q).setReply .nothing)
  /-- One byte of PRG-RAM, in a block that has it. -/
  | prgRam (a : Addr) (v : Byte) (hw : IsPrgRamWrite i a v) (hp : hasPrgRam s.variant s.params = true) :
      Effect i s ((s.setPrgRam (Memory.write s.prgRam (ramOffset a) v)).setReply .nothing)
  /-- One byte of CHR-RAM, inside the array. -/
  | chr (a : Addr) (v : Byte) (o : Nat) (hw : IsChrWrite s i a v o) (hr : s.cfg.chrIsRam = true)
      (ho : o < s.cfg.chrLen) : Effect i s ((s.setChr (Memory.write s.chr o v)).setReply .nothing)

variable {i : Instr}

theorem Effect.of_done (h : s.done = .next t) : Effect i s t := by cases h; exact .answered _

theorem Effect.of_openBus (h : s.answerOpenBus = .next t) : Effect i s t := by cases h; exact .answered _

theorem Effect.of_readPrgRam {o : Nat} (h : s.readPrgRam o = .next t) : Effect i s t := by
  cases h; exact .answered _

theorem Effect.of_readPrgRom {o : Nat} (h : s.readPrgRom o = .next t) : Effect i s t := by
  rw [(State.readPrgRom_next h).2]; exact .answered _

theorem Effect.of_readChr {o : Nat} (h : s.readChr o = .next t) : Effect i s t := by
  rw [(State.readChr_next h).2]; exact .answered _

theorem Effect.of_writeChr {a : Addr} {o : Nat} {v : Byte} (hw : IsChrWrite s i a v o)
    (h : s.writeChr o v = .next t) : Effect i s t := by
  obtain ⟨hr, ho, rfl⟩ | ⟨-, rfl⟩ := State.writeChr_next h
  · exact .chr a v o hw hr ho
  · exact .answered _

theorem Effect.of_writePrgRam {a : Addr} {v : Byte} (hw : IsPrgRamWrite i a v)
    (hp : hasPrgRam s.variant s.params = true) (h : s.writePrgRam (ramOffset a) v = .next t) :
    Effect i s t := by
  cases h; exact .prgRam a v hw hp

theorem Effect.of_mmc3Update {f : Mmc3 → Mmc3} (hw : writesRegs i = true) (hf : ∀ r, (f r).prevA12 = r.prevA12)
    (h : s.mmc3Update f = .next t) : Effect i s t := by
  obtain ⟨r, hr, rfl⟩ := State.mmc3Update_next h
  refine .registers _ hw (State.variant_of_regs hr).symm fun hi => ?_
  rw [hr, regsInv_mmc3] at hi
  rw [regsInv_mmc3, hf, hi]

theorem Effect.of_mmc1Serial {d : Byte} {f : Mmc1 → BitVec 5 → Mmc1} (hw : writesRegs i = true)
    (h : s.mmc1Serial d f = .next t) : Effect i s t := by
  obtain ⟨r, hr, rfl⟩ := State.mmc1Serial_next h
  refine .registers _ hw (State.variant_of_regs hr).symm fun hi => ?_
  rw [hr, regsInv_mmc1] at hi
  exact regsInv_mmc1.2 (Mmc1.serialStep_inv hi.1 hi.2)

theorem Effect.of_mmc1Reset {a : Addr} {d : Byte} (hw : writesRegs i = true)
    (h : execMmc1Reset a d s = .next t) : Effect i s t := by
  obtain ⟨r, hr, h⟩ := State.withMmc1_next h
  cases h
  exact .registers _ hw (State.variant_of_regs hr).symm fun _ => rfl

theorem Effect.of_selectUxromBank {d : Byte} (hw : writesRegs i = true) (hv : s.variant = .uxrom)
    (h : s.selectUxromBank d = .next t) : Effect i s t := by
  obtain ⟨h0, rfl⟩ := State.selectUxromBank_next h
  refine .registers _ hw hv.symm fun _ => regsInv_uxrom.2 ?_
  rw [ofNat_norm]
  exact norm_lt (Nat.pos_of_ne_zero h0)

theorem Effect.of_uxromBankSelect {a : Addr} {d : Byte} (hw : writesRegs i = true)
    (h : execUxromBankSelect a d s = .next t) : Effect i s t := by
  obtain ⟨r, hr, h⟩ := State.withUxrom_next h
  have hv : s.variant = .uxrom := State.variant_of_regs hr
  split at h
  · split at h
    · split at h
      · exact .of_selectUxromBank hw hv h
      · exact .of_done h
    · cases h
  · exact .of_selectUxromBank hw hv h

theorem Effect.of_cnromChrBankSelect {a : Addr} {d : Byte} (hw : writesRegs i = true)
    (h : execCnromChrBankSelect a d s = .next t) : Effect i s t := by
  obtain ⟨r, hr, h⟩ := State.withCnrom_next h
  split at h
  · cases h
  · rename_i h0
    cases h
    refine .registers _ hw (State.variant_of_regs hr).symm fun _ => regsInv_cnrom.2 ?_
    rw [ofNat_norm]
    exact norm_lt (Nat.pos_of_ne_zero h0)

/-- Every transaction that answers a next state has one of the effects. -/
theorem exec_effect (h : exec i s = .next t) : Effect i s t := by
  cases i <;> simp only [exec] at h
  case allCpuUnmappedRead a => exact .of_openBus h
  case allCpuUnmappedWrite a d => exact .of_done h
  case allPpuUnmappedRead a => exact .of_openBus h
  case allPpuUnmappedWrite a d => exact .of_done h
  case allNtMap a => cases h; exact .answered _
  case allReserved => cases h
  case nromPrgRamRead a =>
    obtain ⟨-, h⟩ := State.withNrom_next h
    split at h
    · exact .of_readPrgRam h
    · exact .of_openBus h
  case nromPrgRamWrite a d =>
    obtain ⟨hr, h⟩ := State.withNrom_next h
    split at h
    · exact .of_writePrgRam (by simp [IsPrgRamWrite]) (by rw [State.variant_of_regs hr]; assumption) h
    · exact .of_done h
  case nromPrgRomRead a => exact .of_readPrgRom (State.withNrom_next h).2
  case nromPrgRomWrite a d => exact .of_done (State.withNrom_next h).2
  case nromChrRead a => exact .of_readChr (State.withNrom_next h).2
  case nromChrWrite a d => exact .of_writeChr (.inl ⟨rfl, rfl⟩) (State.withNrom_next h).2
  case nromA12Rise => exact .of_done (State.withNrom_next h).2
  case nromIrqAck => exact .of_done (State.withNrom_next h).2
  case mmc1PrgRamRead a =>
    obtain ⟨r, -, h⟩ := State.withMmc1_next h
    split at h
    · exact .of_openBus h
    · exact .of_readPrgRam h
  case mmc1PrgRamWrite a d =>
    obtain ⟨r, hr, h⟩ := State.withMmc1_next h
    split at h
    · exact .of_done h
    · exact .of_writePrgRam (by simp [IsPrgRamWrite]) (by rw [State.variant_of_regs hr]; rfl) h
  case mmc1PrgRomRead a => obtain ⟨r, -, h⟩ := State.withMmc1_next h; exact .of_readPrgRom h
  case mmc1Reset a d => exact .of_mmc1Reset rfl h
  case mmc1SerialControl a d => exact .of_mmc1Serial rfl h
  case mmc1SerialChr0 a d => exact .of_mmc1Serial rfl h
  case mmc1SerialChr1 a d => exact .of_mmc1Serial rfl h
  case mmc1SerialPrg a d => exact .of_mmc1Serial rfl h
  case mmc1ChrRead a => obtain ⟨r, -, h⟩ := State.withMmc1_next h; exact .of_readChr h
  case mmc1ChrWrite a d =>
    obtain ⟨r, hr, h⟩ := State.withMmc1_next h
    exact .of_writeChr (.inr (.inl ⟨r, hr, rfl, rfl⟩)) h
  case mmc1A12Rise => obtain ⟨r, -, h⟩ := State.withMmc1_next h; exact .of_done h
  case mmc1IrqAck => obtain ⟨r, -, h⟩ := State.withMmc1_next h; exact .of_done h
  case uxromWramRead a => obtain ⟨r, -, h⟩ := State.withUxrom_next h; exact .of_openBus h
  case uxromWramWrite a d => obtain ⟨r, -, h⟩ := State.withUxrom_next h; exact .of_done h
  case uxromPrgRomRead a => obtain ⟨r, -, h⟩ := State.withUxrom_next h; exact .of_readPrgRom h
  case uxromBankSelect a d => exact .of_uxromBankSelect rfl h
  case uxromChrRead a => obtain ⟨r, -, h⟩ := State.withUxrom_next h; exact .of_readChr h
  case uxromChrWrite a d =>
    obtain ⟨r, -, h⟩ := State.withUxrom_next h
    exact .of_writeChr (.inr (.inr (.inl ⟨rfl, rfl⟩))) h
  case uxromA12Rise => obtain ⟨r, -, h⟩ := State.withUxrom_next h; exact .of_done h
  case uxromIrqAck => obtain ⟨r, -, h⟩ := State.withUxrom_next h; exact .of_done h
  case cnromWramRead a => obtain ⟨r, -, h⟩ := State.withCnrom_next h; exact .of_openBus h
  case cnromWramWrite a d => obtain ⟨r, -, h⟩ := State.withCnrom_next h; exact .of_done h
  case cnromPrgRomRead a => obtain ⟨r, -, h⟩ := State.withCnrom_next h; exact .of_readPrgRom h
  case cnromChrBankSelect a d => exact .of_cnromChrBankSelect rfl h
  case cnromChrRead a => obtain ⟨r, -, h⟩ := State.withCnrom_next h; exact .of_readChr h
  case cnromChrWrite a d =>
    obtain ⟨r, hr, h⟩ := State.withCnrom_next h
    exact .of_writeChr (.inr (.inr (.inr (.inl ⟨r, hr, rfl, rfl⟩)))) h
  case cnromA12Rise => obtain ⟨r, -, h⟩ := State.withCnrom_next h; exact .of_done h
  case cnromIrqAck => obtain ⟨r, -, h⟩ := State.withCnrom_next h; exact .of_done h
  case mmc3PrgRamRead a =>
    obtain ⟨r, -, h⟩ := State.withMmc3_next h
    split at h
    · exact .of_readPrgRam h
    · exact .of_openBus h
  case mmc3PrgRamWrite a d =>
    obtain ⟨r, hr, h⟩ := State.withMmc3_next h
    split at h
    · exact .of_writePrgRam (by simp [IsPrgRamWrite]) (by rw [State.variant_of_regs hr]; rfl) h
    · exact .of_done h
  case mmc3PrgRomRead a => obtain ⟨r, -, h⟩ := State.withMmc3_next h; exact .of_readPrgRom h
  case mmc3BankSelect a d => exact .of_mmc3Update (f := fun r => r.select d) rfl (fun _ => rfl) h
  case mmc3BankData a d => exact .of_mmc3Update (f := fun r => r.bankData d) rfl (fun _ => rfl) h
  case mmc3Mirroring a d => exact .of_mmc3Update (f := fun r => r.setMirror d) rfl (fun _ => rfl) h
  case mmc3PrgRamProtect a d => exact .of_mmc3Update (f := fun r => r.setProtect d) rfl (fun _ => rfl) h
  case mmc3IrqLatch a d => exact .of_mmc3Update (f := fun r => r.setLatch d) rfl (fun _ => rfl) h
  case mmc3IrqReload a d => exact .of_mmc3Update (f := fun r => r.requestReload) rfl (fun _ => rfl) h
  case mmc3IrqDisable a d => exact .of_mmc3Update (f := fun r => r.disableIrq) rfl (fun _ => rfl) h
  case mmc3IrqEnable a d => exact .of_mmc3Update (f := fun r => r.enableIrq) rfl (fun _ => rfl) h
  case mmc3ChrRead a => obtain ⟨r, -, h⟩ := State.withMmc3_next h; exact .of_readChr h
  case mmc3ChrWrite a d =>
    obtain ⟨r, hr, h⟩ := State.withMmc3_next h
    exact .of_writeChr (.inr (.inr (.inr (.inr ⟨r, hr, rfl, rfl⟩)))) h
  case mmc3A12Rise => exact .of_mmc3Update rfl Mmc3.a12Rise_prevA12 h
  case mmc3IrqAck => exact .of_mmc3Update (f := fun r => r.clearIrq) rfl (fun _ => rfl) h

/-! ## Several steps, several operations -/

@[simp] theorem stepTimes_zero (s : State) : stepTimes 0 s = .next s := rfl

theorem stepTimes_succ {k : Nat} (h : step s = .next t) : stepTimes (k + 1) s = stepTimes k t := by
  have hc : Sys2Proof.core.step s = .next t := h
  simp only [stepTimes, Host.Core.run, hc]
  rfl

@[simp] theorem execTimes_zero (i : Instr) (s : State) : execTimes 0 i s = .next s := rfl

theorem execTimes_succ {k : Nat} (h : exec i s = .next t) : execTimes (k + 1) i s = execTimes k i t := by
  rw [execTimes, h]

/-! ## The invariant by its parts -/

/-- The invariant, part by part. -/
theorem State.inv_iff : s.Inv ↔
    (variantOf s.cfg.mapper = some s.variant ∧ configOk s.variant s.cfg = true ∧
      (s.cfg.chrIsRam = true → s.cfg.chrLen = Config.chrRamSize)) ∧
    (s.prgRom.wf = true ∧ s.prgRom.below s.cfg.prgLen = true ∧ s.chr.wf = true ∧
      s.chr.below s.cfg.chrLen = true ∧ s.prgRam.wf = true ∧
      s.prgRam.below (if hasPrgRam s.variant s.params then Config.prgRamSize else 0) = true) ∧
    regsInv s.cfg s.regs = true := by
  simp only [State.Inv, State.inv, configInv, storageInv, Bool.and_eq_true, Bool.or_eq_true, Bool.not_eq_true',
    beq_iff_eq, and_assoc]
  cases s.cfg.chrIsRam <;> simp

theorem State.Inv.config (h : s.Inv) : configOk s.variant s.cfg = true := (State.inv_iff.1 h).1.2.1

theorem State.Inv.regs (h : s.Inv) : regsInv s.cfg s.regs = true := (State.inv_iff.1 h).2.2

theorem State.Inv.prgRam_wf (h : s.Inv) : s.prgRam.wf = true := (State.inv_iff.1 h).2.1.2.2.2.2.1

theorem State.Inv.chr_wf (h : s.Inv) : s.chr.wf = true := (State.inv_iff.1 h).2.1.2.2.1

end Sys2Proof.Machine
end

