-- ==== Sys2Proof/Laws/Outputs.lean ====
section
/-! SUPPORT. The outputs by the registers they show, and the battery view by its three conditions. -/

namespace Sys2Proof.Machine

variable {s t : State}

theorem State.mirroring_mmc1 {r : Mmc1} (h : s.regs = .mmc1 r) : s.mirroring = r.mirroring := by
  simp [State.mirroring, h]

theorem State.mirroring_mmc3 {r : Mmc3} (h : s.regs = .mmc3 r) : s.mirroring = r.mirroring := by
  simp [State.mirroring, h]

theorem State.irqPending_mmc3 {r : Mmc3} (h : s.regs = .mmc3 r) : s.irqPending = r.irqPending := by
  simp [State.irqPending, h]

theorem State.irqPending_other (h : s.variant ≠ .mmc3) : s.irqPending = false := by
  cases hr : s.regs <;> simp_all [State.irqPending, State.variant]

theorem State.hasSram_iff : s.hasSram = true ↔ s.cfg.battery = true ∧ hasPrgRam s.variant s.params = true := by
  simp [State.hasSram]

theorem State.sram_of (h : s.hasSram = true) : s.sram = some (Memory.toBytes s.prgRam Config.prgRamSize) := if_pos h

theorem State.sram_none (h : s.hasSram = false) : s.sram = none := by simp [State.sram, h]

/-- All that loading the battery view can do, and when. -/
theorem State.loadSram_eq_some {bytes : List Byte} : s.loadSram bytes = some t ↔
    s.hasSram = true ∧ s.started = false ∧ bytes.length = Config.prgRamSize ∧
      t = s.setPrgRam (Memory.ofBytes bytes) := by
  unfold State.loadSram
  split
  · rename_i h
    simp only [Bool.and_eq_true, Bool.not_eq_true', beq_iff_eq] at h
    refine ⟨fun e => ⟨h.1.1, h.1.2, h.2, (Option.some.inj e).symm⟩, fun e => congrArg some e.2.2.2.symm⟩
  · rename_i h
    refine ⟨fun e => (by cases e), fun e => absurd ?_ h⟩
    simp [e.1, e.2.1, e.2.2.1]

end Sys2Proof.Machine
end

