-- ==== Sys2Proof/Laws/PerInstr.lean ====
section
/-! SUPPORT. The per-instruction family WordInRow: the word of a well-formed transaction belongs to a row of
the opcode table that has the transaction's mnemonic and variant (R95). -/

namespace Sys2Proof

theorem and_high_eq {a P M : Addr} {k : Nat} (hM : M = BitVec.allOnes 16 <<< k) (hk : k ≤ 16)
    (h : a.toNat / 2 ^ k * 2 ^ k = P.toNat) : a &&& M = P := by
  subst hM
  exact BitVec.eq_of_toNat_eq ((and_high_mask a k hk).trans h)

theorem and_region_parity {a P : Addr} {b : Bool} (h : a.getLsbD 0 = b)
    (hP : a.toNat / 2 ^ 13 * 2 ^ 13 = P.toNat) :
    a &&& 0xE001 = P ||| (BitVec.ofBool b).setWidth 16 := by
  have : (0xE001 : Addr) = 0xE000 ||| 1#16 := by decide
  rw [this, BitVec.and_or_distrib_left, and_high_eq
        (k := 13) (by decide) (by decide) hP,
    BitVec.and_one_eq_setWidth_ofBool_getLsbD, h]

theorem and_bit7 : ∀ d : Byte, d &&& 0x80 = if d.getLsbD 7 then 0x80 else 0 := by decide

/-- The one way a member of the family is proved: a row, and the three fields of the word against it. -/
theorem wordInRow_intro {i : Instr} {op : BitVec 3} {a : Addr} {d : Byte} (r : Row) (hr : r ∈ table)
    (hm : r.mnemonic = i.mnemonic) (hv : r.variant? = i.variant?) (he : encode i = tword op a d)
    (ho : op &&& opField r.mask = opField r.pattern)
    (ha : a &&& addrField r.mask = addrField r.pattern)
    (hd : d &&& dataField r.mask = dataField r.pattern) :
    ∃ r ∈ table, r.mnemonic = i.mnemonic ∧ r.variant? = i.variant? ∧ r.takes (encode i) = true :=
  ⟨r, hr, hm, hv, by rw [Row.takes_iff, he]; simpa using ⟨ho, ha, hd⟩⟩

theorem and_unmasked {n : Nat} (x : BitVec n) : x &&& 0 = 0 := by simp

/-- The window of a row whose address mask is the high bits from `k` on. -/
theorem and_window {a : Addr} {lo hi k : Nat} {M P : Addr} (h : inWindow lo hi a = true)
    (hM : M = BitVec.allOnes 16 <<< k) (hk : k ≤ 16)
    (hP : ∀ n, lo ≤ n → n ≤ hi → n / 2 ^ k * 2 ^ k = P.toNat) : a &&& M = P :=
  and_high_eq hM hk (hP _ (inWindow_iff.1 h).1 (inWindow_iff.1 h).2)

/-- The window of an MMC3 register. -/
theorem and_parity {a : Addr} {lo hi : Nat} {P Q : Addr} (b : Bool) (h : inWindow lo hi a = true)
    (hb : a.getLsbD 0 = b) (hP : ∀ n, lo ≤ n → n ≤ hi → n / 2 ^ 13 * 2 ^ 13 = Q.toNat)
    (hQ : P = Q ||| (BitVec.ofBool b).setWidth 16) : a &&& 0xE001 = P :=
  (and_region_parity hb (hP _ (inWindow_iff.1 h).1 (inWindow_iff.1 h).2)).trans hQ.symm

end Sys2Proof

namespace Sys2Proof.Laws.WordInRow

/-- The word of a well-formed transaction belongs to a row of its own mnemonic and variant. -/
def Statement (i : Instr) : Prop :=
  i.wellFormed = true → ∃ r ∈ table, r.mnemonic = i.mnemonic ∧ r.variant? = i.variant? ∧ r.takes (encode i) = true

theorem allCpuUnmappedRead (a : Addr) : Statement (.allCpuUnmappedRead a) := by
  intro h
  have h := inWindow_iff.1 (h : inWindow _ _ a = true)
  by_cases h0 : a.toNat ≤ 0x3fff
  · exact wordInRow_intro ⟨none, "ALL.CPU_UNMAPPED_READ", 0x0000000, 0x7C00000⟩ (by decide) rfl rfl rfl (by decide)
      (and_window (inWindow_iff.2 (⟨by omega, h0⟩ : 0x0 ≤ a.toNat ∧ a.toNat ≤ 0x3fff))
        (k := 14) (by decide) (by decide) (by intro n h1 h2; simp [addrField]; omega)) (and_unmasked _)
  exact wordInRow_intro ⟨none, "ALL.CPU_UNMAPPED_READ", 0x0400000, 0x7E00000⟩ (by decide) rfl rfl rfl (by decide)
      (and_window (inWindow_iff.2 (⟨by omega, by omega⟩ : 0x4000 ≤ a.toNat ∧ a.toNat ≤ 0x5fff))
        (k := 13) (by decide) (by decide) (by intro n h1 h2; simp [addrField]; omega)) (and_unmasked _)

theorem allCpuUnmappedWrite (a : Addr) (d : Byte) : Statement (.allCpuUnmappedWrite a d) := by
  intro h
  have h := inWindow_iff.1 (h : inWindow _ _ a = true)
  by_cases h0 : a.toNat ≤ 0x3fff
  · exact wordInRow_intro ⟨none, "ALL.CPU_UNMAPPED_WRITE", 0x1000000, 0x7C00000⟩ (by decide) rfl rfl rfl (by decide)
      (and_window (inWindow_iff.2 (⟨by omega, h0⟩ : 0x0 ≤ a.toNat ∧ a.toNat ≤ 0x3fff))
        (k := 14) (by decide) (by decide) (by intro n h1 h2; simp [addrField]; omega)) (and_unmasked _)
  exact wordInRow_intro ⟨none, "ALL.CPU_UNMAPPED_WRITE", 0x1400000, 0x7E00000⟩ (by decide) rfl rfl rfl (by decide)
      (and_window (inWindow_iff.2 (⟨by omega, by omega⟩ : 0x4000 ≤ a.toNat ∧ a.toNat ≤ 0x5fff))
        (k := 13) (by decide) (by decide) (by intro n h1 h2; simp [addrField]; omega)) (and_unmasked _)

theorem allPpuUnmappedRead (a : Addr) : Statement (.allPpuUnmappedRead a) := by
  intro h
  have h := inWindow_iff.1 (h : inWindow _ _ a = true)
  by_cases h0 : a.toNat ≤ 0x3fff
  · exact wordInRow_intro ⟨none, "ALL.PPU_UNMAPPED_READ", 0x2200000, 0x7E00000⟩ (by decide) rfl rfl rfl (by decide)
      (and_window (inWindow_iff.2 (⟨by omega, h0⟩ : 0x2000 ≤ a.toNat ∧ a.toNat ≤ 0x3fff))
        (k := 13) (by decide) (by decide) (by intro n h1 h2; simp [addrField]; omega)) (and_unmasked _)
  by_cases h1 : a.toNat ≤ 0x7fff
  · exact wordInRow_intro ⟨none, "ALL.PPU_UNMAPPED_READ", 0x2400000, 0x7C00000⟩ (by decide) rfl rfl rfl (by decide)
      (and_window (inWindow_iff.2 (⟨by omega, h1⟩ : 0x4000 ≤ a.toNat ∧ a.toNat ≤ 0x7fff))
        (k := 14) (by decide) (by decide) (by intro n h1 h2; simp [addrField]; omega)) (and_unmasked _)
  exact wordInRow_intro ⟨none, "ALL.PPU_UNMAPPED_READ", 0x2800000, 0x7800000⟩ (by decide) rfl rfl rfl (by decide)
      (and_window (inWindow_iff.2 (⟨by omega, by omega⟩ : 0x8000 ≤ a.toNat ∧ a.toNat ≤ 0xffff))
        (k := 15) (by decide) (by decide) (by intro n h1 h2; simp [addrField]; omega)) (and_unmasked _)

theorem allPpuUnmappedWrite (a : Addr) (d : Byte) : Statement (.allPpuUnmappedWrite a d) := by
  intro h
  have h := inWindow_iff.1 (h : inWindow _ _ a = true)
  by_cases h0 : a.toNat ≤ 0x3fff
  · exact wordInRow_intro ⟨none, "ALL.PPU_UNMAPPED_WRITE", 0x3200000, 0x7E00000⟩ (by decide) rfl rfl rfl (by decide)
      (and_window (inWindow_iff.2 (⟨by omega, h0⟩ : 0x2000 ≤ a.toNat ∧ a.toNat ≤ 0x3fff))
        (k := 13) (by decide) (by decide) (by intro n h1 h2; simp [addrField]; omega)) (and_unmasked _)
  by_cases h1 : a.toNat ≤ 0x7fff
  · exact wordInRow_intro ⟨none, "ALL.PPU_UNMAPPED_WRITE", 0x3400000, 0x7C00000⟩ (by decide) rfl rfl rfl (by decide)
      (and_window (inWindow_iff.2 (⟨by omega, h1⟩ : 0x4000 ≤ a.toNat ∧ a.toNat ≤ 0x7fff))
        (k := 14) (by decide) (by decide) (by intro n h1 h2; simp [addrField]; omega)) (and_unmasked _)
  exact wordInRow_intro ⟨none, "ALL.PPU_UNMAPPED_WRITE", 0x3800000, 0x7800000⟩ (by decide) rfl rfl rfl (by decide)
      (and_window (inWindow_iff.2 (⟨by omega, by omega⟩ : 0x8000 ≤ a.toNat ∧ a.toNat ≤ 0xffff))
        (k := 15) (by decide) (by decide) (by intro n h1 h2; simp [addrField]; omega)) (and_unmasked _)

theorem allNtMap (a : BitVec 12) : Statement (.allNtMap a) := by
  intro _
  exact wordInRow_intro ⟨none, "ALL.NT_MAP", 0x6000000, 0x7000000⟩ (by decide) rfl rfl rfl (by decide) (and_unmasked _) (and_unmasked _)

theorem allReserved : Statement (.allReserved) := by
  intro _
  exact wordInRow_intro ⟨none, "ALL.RESERVED", 0x7000000, 0x7000000⟩ (by decide) rfl rfl rfl (by decide) (and_unmasked _) (and_unmasked _)

theorem nromPrgRamRead (a : Addr) : Statement (.nromPrgRamRead a) := by
  intro h
  exact wordInRow_intro ⟨some .nrom, "NROM.PRG_RAM_READ", 0x0600000, 0x7E00000⟩ (by decide) rfl rfl rfl (by decide)
      (and_window (h : inWindow _ _ a = true)
        (k := 13) (by decide) (by decide) (by intro n h1 h2; simp [addrField]; omega)) (and_unmasked _)

theorem nromPrgRamWrite (a : Addr) (d : Byte) : Statement (.nromPrgRamWrite a d) := by
  intro h
  exact wordInRow_intro ⟨some .nrom, "NROM.PRG_RAM_WRITE", 0x1600000, 0x7E00000⟩ (by decide) rfl rfl rfl (by decide)
      (and_window (h : inWindow _ _ a = true)
        (k := 13) (by decide) (by decide) (by intro n h1 h2; simp [addrField]; omega)) (and_unmasked _)

theorem nromPrgRomRead (a : Addr) : Statement (.nromPrgRomRead a) := by
  intro h
  exact wordInRow_intro ⟨some .nrom, "NROM.PRG_ROM_READ", 0x0800000, 0x7800000⟩ (by decide) rfl rfl rfl (by decide)
      (and_window (h : inWindow _ _ a = true)
        (k := 15) (by decide) (by decide) (by intro n h1 h2; simp [addrField]; omega)) (and_unmasked _)

theorem nromPrgRomWrite (a : Addr) (d : Byte) : Statement (.nromPrgRomWrite a d) := by
  intro h
  exact wordInRow_intro ⟨some .nrom, "NROM.PRG_ROM_WRITE", 0x1800000, 0x7800000⟩ (by decide) rfl rfl rfl (by decide)
      (and_window (h : inWindow _ _ a = true)
        (k := 15) (by decide) (by decide) (by intro n h1 h2; simp [addrField]; omega)) (and_unmasked _)

theorem nromChrRead (a : Addr) : Statement (.nromChrRead a) := by
  intro h
  exact wordInRow_intro ⟨some .nrom, "NROM.CHR_READ", 0x2000000, 0x7E00000⟩ (by decide) rfl rfl rfl (by decide)
      (and_window (h : inWindow _ _ a = true)
        (k := 13) (by decide) (by decide) (by intro n h1 h2; simp [addrField]; omega)) (and_unmasked _)

theorem nromChrWrite (a : Addr) (d : Byte) : Statement (.nromChrWrite a d) := by
  intro h
  exact wordInRow_intro ⟨some .nrom, "NROM.CHR_WRITE", 0x3000000, 0x7E00000⟩ (by decide) rfl rfl rfl (by decide)
      (and_window (h : inWindow _ _ a = true)
        (k := 13) (by decide) (by decide) (by intro n h1 h2; simp [addrField]; omega)) (and_unmasked _)

theorem nromA12Rise : Statement (.nromA12Rise) := by
  intro _
  exact wordInRow_intro ⟨some .nrom, "NROM.A12_RISE", 0x4000000, 0x7000000⟩ (by decide) rfl rfl rfl (by decide) (and_unmasked _) (and_unmasked _)

theorem nromIrqAck : Statement (.nromIrqAck) := by
  intro _
  exact wordInRow_intro ⟨some .nrom, "NROM.IRQ_ACK", 0x5000000, 0x7000000⟩ (by decide) rfl rfl rfl (by decide) (and_unmasked _) (and_unmasked _)

theorem mmc1PrgRamRead (a : Addr) : Statement (.mmc1PrgRamRead a) := by
  intro h
  exact wordInRow_intro ⟨some .mmc1, "MMC1.PRG_RAM_READ", 0x0600000, 0x7E00000⟩ (by decide) rfl rfl rfl (by decide)
      (and_window (h : inWindow _ _ a = true)
        (k := 13) (by decide) (by decide) (by intro n h1 h2; simp [addrField]; omega)) (and_unmasked _)

theorem mmc1PrgRamWrite (a : Addr) (d : Byte) : Statement (.mmc1PrgRamWrite a d) := by
  intro h
  exact wordInRow_intro ⟨some .mmc1, "MMC1.PRG_RAM_WRITE", 0x1600000, 0x7E00000⟩ (by decide) rfl rfl rfl (by decide)
      (and_window (h : inWindow _ _ a = true)
        (k := 13) (by decide) (by decide) (by intro n h1 h2; simp [addrField]; omega)) (and_unmasked _)

theorem mmc1PrgRomRead (a : Addr) : Statement (.mmc1PrgRomRead a) := by
  intro h
  exact wordInRow_intro ⟨some .mmc1, "MMC1.PRG_ROM_READ", 0x0800000, 0x7800000⟩ (by decide) rfl rfl rfl (by decide)
      (and_window (h : inWindow _ _ a = true)
        (k := 15) (by decide) (by decide) (by intro n h1 h2; simp [addrField]; omega)) (and_unmasked _)

theorem mmc1Reset (a : Addr) (d : Byte) : Statement (.mmc1Reset a d) := by
  intro h
  simp only [Instr.wellFormed, Bool.and_eq_true] at h
  obtain ⟨h, hb⟩ := h
  exact wordInRow_intro ⟨some .mmc1, "MMC1.RESET", 0x1800080, 0x7800080⟩ (by decide) rfl rfl rfl (by decide)
      (and_window h
        (k := 15) (by decide) (by decide) (by intro n h1 h2; simp [addrField]; omega))
      ((and_bit7 d).trans (by simp_all [dataField]))

theorem mmc1SerialControl (a : Addr) (d : Byte) : Statement (.mmc1SerialControl a d) := by
  intro h
  simp only [Instr.wellFormed, Bool.and_eq_true, Bool.not_eq_true'] at h
  obtain ⟨h, hb⟩ := h
  exact wordInRow_intro ⟨some .mmc1, "MMC1.SERIAL_CONTROL", 0x1800000, 0x7E00080⟩ (by decide) rfl rfl rfl (by decide)
      (and_window h
        (k := 13) (by decide) (by decide) (by intro n h1 h2; simp [addrField]; omega))
      ((and_bit7 d).trans (by simp_all [dataField]))

theorem mmc1SerialChr0 (a : Addr) (d : Byte) : Statement (.mmc1SerialChr0 a d) := by
  intro h
  simp only [Instr.wellFormed, Bool.and_eq_true, Bool.not_eq_true'] at h
  obtain ⟨h, hb⟩ := h
  exact wordInRow_intro ⟨some .mmc1, "MMC1.SERIAL_CHR0", 0x1A00000, 0x7E00080⟩ (by decide) rfl rfl rfl (by decide)
      (and_window h
        (k := 13) (by decide) (by decide) (by intro n h1 h2; simp [addrField]; omega))
      ((and_bit7 d).trans (by simp_all [dataField]))

theorem mmc1SerialChr1 (a : Addr) (d : Byte) : Statement (.mmc1SerialChr1 a d) := by
  intro h
  simp only [Instr.wellFormed, Bool.and_eq_true, Bool.not_eq_true'] at h
  obtain ⟨h, hb⟩ := h
  exact wordInRow_intro ⟨some .mmc1, "MMC1.SERIAL_CHR1", 0x1C00000, 0x7E00080⟩ (by decide) rfl rfl rfl (by decide)
      (and_window h
        (k := 13) (by decide) (by decide) (by intro n h1 h2; simp [addrField]; omega))
      ((and_bit7 d).trans (by simp_all [dataField]))

theorem mmc1SerialPrg (a : Addr) (d : Byte) : Statement (.mmc1SerialPrg a d) := by
  intro h
  simp only [Instr.wellFormed, Bool.and_eq_true, Bool.not_eq_true'] at h
  obtain ⟨h, hb⟩ := h
  exact wordInRow_intro ⟨some .mmc1, "MMC1.SERIAL_PRG", 0x1E00000, 0x7E00080⟩ (by decide) rfl rfl rfl (by decide)
      (and_window h
        (k := 13) (by decide) (by decide) (by intro n h1 h2; simp [addrField]; omega))
      ((and_bit7 d).trans (by simp_all [dataField]))

theorem mmc1ChrRead (a : Addr) : Statement (.mmc1ChrRead a) := by
  intro h
  exact wordInRow_intro ⟨some .mmc1, "MMC1.CHR_READ", 0x2000000, 0x7E00000⟩ (by decide) rfl rfl rfl (by decide)
      (and_window (h : inWindow _ _ a = true)
        (k := 13) (by decide) (by decide) (by intro n h1 h2; simp [addrField]; omega)) (and_unmasked _)

theorem mmc1ChrWrite (a : Addr) (d : Byte) : Statement (.mmc1ChrWrite a d) := by
  intro h
  exact wordInRow_intro ⟨some .mmc1, "MMC1.CHR_WRITE", 0x3000000, 0x7E00000⟩ (by decide) rfl rfl rfl (by decide)
      (and_window (h : inWindow _ _ a = true)
        (k := 13) (by decide) (by decide) (by intro n h1 h2; simp [addrField]; omega)) (and_unmasked _)

theorem mmc1A12Rise : Statement (.mmc1A12Rise) := by
  intro _
  exact wordInRow_intro ⟨some .mmc1, "MMC1.A12_RISE", 0x4000000, 0x7000000⟩ (by decide) rfl rfl rfl (by decide) (and_unmasked _) (and_unmasked _)

theorem mmc1IrqAck : Statement (.mmc1IrqAck) := by
  intro _
  exact wordInRow_intro ⟨some .mmc1, "MMC1.IRQ_ACK", 0x5000000, 0x7000000⟩ (by decide) rfl rfl rfl (by decide) (and_unmasked _) (and_unmasked _)

theorem uxromWramRead (a : Addr) : Statement (.uxromWramRead a) := by
  intro h
  exact wordInRow_intro ⟨some .uxrom, "UXROM.WRAM_READ", 0x0600000, 0x7E00000⟩ (by decide) rfl rfl rfl (by decide)
      (and_window (h : inWindow _ _ a = true)
        (k := 13) (by decide) (by decide) (by intro n h1 h2; simp [addrField]; omega)) (and_unmasked _)

theorem uxromWramWrite (a : Addr) (d : Byte) : Statement (.uxromWramWrite a d) := by
  intro h
  exact wordInRow_intro ⟨some .uxrom, "UXROM.WRAM_WRITE", 0x1600000, 0x7E00000⟩ (by decide) rfl rfl rfl (by decide)
      (and_window (h : inWindow _ _ a = true)
        (k := 13) (by decide) (by decide) (by intro n h1 h2; simp [addrField]; omega)) (and_unmasked _)

theorem uxromPrgRomRead (a : Addr) : Statement (.uxromPrgRomRead a) := by
  intro h
  exact wordInRow_intro ⟨some .uxrom, "UXROM.PRG_ROM_READ", 0x0800000, 0x7800000⟩ (by decide) rfl rfl rfl (by decide)
      (and_window (h : inWindow _ _ a = true)
        (k := 15) (by decide) (by decide) (by intro n h1 h2; simp [addrField]; omega)) (and_unmasked _)

theorem uxromBankSelect (a : Addr) (d : Byte) : Statement (.uxromBankSelect a d) := by
  intro h
  exact wordInRow_intro ⟨some .uxrom, "UXROM.BANK_SELECT", 0x1800000, 0x7800000⟩ (by decide) rfl rfl rfl (by decide)
      (and_window (h : inWindow _ _ a = true)
        (k := 15) (by decide) (by decide) (by intro n h1 h2; simp [addrField]; omega)) (and_unmasked _)

theorem uxromChrRead (a : Addr) : Statement (.uxromChrRead a) := by
  intro h
  exact wordInRow_intro ⟨some .uxrom, "UXROM.CHR_READ", 0x2000000, 0x7E00000⟩ (by decide) rfl rfl rfl (by decide)
      (and_window (h : inWindow _ _ a = true)
        (k := 13) (by decide) (by decide) (by intro n h1 h2; simp [addrField]; omega)) (and_unmasked _)

theorem uxromChrWrite (a : Addr) (d : Byte) : Statement (.uxromChrWrite a d) := by
  intro h
  exact wordInRow_intro ⟨some .uxrom, "UXROM.CHR_WRITE", 0x3000000, 0x7E00000⟩ (by decide) rfl rfl rfl (by decide)
      (and_window (h : inWindow _ _ a = true)
        (k := 13) (by decide) (by decide) (by intro n h1 h2; simp [addrField]; omega)) (and_unmasked _)

theorem uxromA12Rise : Statement (.uxromA12Rise) := by
  intro _
  exact wordInRow_intro ⟨some .uxrom, "UXROM.A12_RISE", 0x4000000, 0x7000000⟩ (by decide) rfl rfl rfl (by decide) (and_unmasked _) (and_unmasked _)

theorem uxromIrqAck : Statement (.uxromIrqAck) := by
  intro _
  exact wordInRow_intro ⟨some .uxrom, "UXROM.IRQ_ACK", 0x5000000, 0x7000000⟩ (by decide) rfl rfl rfl (by decide) (and_unmasked _) (and_unmasked _)

theorem cnromWramRead (a : Addr) : Statement (.cnromWramRead a) := by
  intro h
  exact wordInRow_intro ⟨some .cnrom, "CNROM.WRAM_READ", 0x0600000, 0x7E00000⟩ (by decide) rfl rfl rfl (by decide)
      (and_window (h : inWindow _ _ a = true)
        (k := 13) (by decide) (by decide) (by intro n h1 h2; simp [addrField]; omega)) (and_unmasked _)

theorem cnromWramWrite (a : Addr) (d : Byte) : Statement (.cnromWramWrite a d) := by
  intro h
  exact wordInRow_intro ⟨some .cnrom, "CNROM.WRAM_WRITE", 0x1600000, 0x7E00000⟩ (by decide) rfl rfl rfl (by decide)
      (and_window (h : inWindow _ _ a = true)
        (k := 13) (by decide) (by decide) (by intro n h1 h2; simp [addrField]; omega)) (and_unmasked _)

theorem cnromPrgRomRead (a : Addr) : Statement (.cnromPrgRomRead a) := by
  intro h
  exact wordInRow_intro ⟨some .cnrom, "CNROM.PRG_ROM_READ", 0x0800000, 0x7800000⟩ (by decide) rfl rfl rfl (by decide)
      (and_window (h : inWindow _ _ a = true)
        (k := 15) (by decide) (by decide) (by intro n h1 h2; simp [addrField]; omega)) (and_unmasked _)

theorem cnromChrBankSelect (a : Addr) (d : Byte) : Statement (.cnromChrBankSelect a d) := by
  intro h
  exact wordInRow_intro ⟨some .cnrom, "CNROM.CHR_BANK_SELECT", 0x1800000, 0x7800000⟩ (by decide) rfl rfl rfl (by decide)
      (and_window (h : inWindow _ _ a = true)
        (k := 15) (by decide) (by decide) (by intro n h1 h2; simp [addrField]; omega)) (and_unmasked _)

theorem cnromChrRead (a : Addr) : Statement (.cnromChrRead a) := by
  intro h
  exact wordInRow_intro ⟨some .cnrom, "CNROM.CHR_READ", 0x2000000, 0x7E00000⟩ (by decide) rfl rfl rfl (by decide)
      (and_window (h : inWindow _ _ a = true)
        (k := 13) (by decide) (by decide) (by intro n h1 h2; simp [addrField]; omega)) (and_unmasked _)

theorem cnromChrWrite (a : Addr) (d : Byte) : Statement (.cnromChrWrite a d) := by
  intro h
  exact wordInRow_intro ⟨some .cnrom, "CNROM.CHR_WRITE", 0x3000000, 0x7E00000⟩ (by decide) rfl rfl rfl (by decide)
      (and_window (h : inWindow _ _ a = true)
        (k := 13) (by decide) (by decide) (by intro n h1 h2; simp [addrField]; omega)) (and_unmasked _)

theorem cnromA12Rise : Statement (.cnromA12Rise) := by
  intro _
  exact wordInRow_intro ⟨some .cnrom, "CNROM.A12_RISE", 0x4000000, 0x7000000⟩ (by decide) rfl rfl rfl (by decide) (and_unmasked _) (and_unmasked _)

theorem cnromIrqAck : Statement (.cnromIrqAck) := by
  intro _
  exact wordInRow_intro ⟨some .cnrom, "CNROM.IRQ_ACK", 0x5000000, 0x7000000⟩ (by decide) rfl rfl rfl (by decide) (and_unmasked _) (and_unmasked _)

theorem mmc3PrgRamRead (a : Addr) : Statement (.mmc3PrgRamRead a) := by
  intro h
  exact wordInRow_intro ⟨some .mmc3, "MMC3.PRG_RAM_READ", 0x0600000, 0x7E00000⟩ (by decide) rfl rfl rfl (by decide)
      (and_window (h : inWindow _ _ a = true)
        (k := 13) (by decide) (by decide) (by intro n h1 h2; simp [addrField]; omega)) (and_unmasked _)

theorem mmc3PrgRamWrite (a : Addr) (d : Byte) : Statement (.mmc3PrgRamWrite a d) := by
  intro h
  exact wordInRow_intro ⟨some .mmc3, "MMC3.PRG_RAM_WRITE", 0x1600000, 0x7E00000⟩ (by decide) rfl rfl rfl (by decide)
      (and_window (h : inWindow _ _ a = true)
        (k := 13) (by decide) (by decide) (by intro n h1 h2; simp [addrField]; omega)) (and_unmasked _)

theorem mmc3PrgRomRead (a : Addr) : Statement (.mmc3PrgRomRead a) := by
  intro h
  exact wordInRow_intro ⟨some .mmc3, "MMC3.PRG_ROM_READ", 0x0800000, 0x7800000⟩ (by decide) rfl rfl rfl (by decide)
      (and_window (h : inWindow _ _ a = true)
        (k := 15) (by decide) (by decide) (by intro n h1 h2; simp [addrField]; omega)) (and_unmasked _)

theorem mmc3BankSelect (a : Addr) (d : Byte) : Statement (.mmc3BankSelect a d) := by
  intro h
  simp only [Instr.wellFormed, Bool.and_eq_true, Bool.not_eq_true'] at h
  obtain ⟨h, hb⟩ := h
  exact wordInRow_intro ⟨some .mmc3, "MMC3.BANK_SELECT", 0x1800000, 0x7E00100⟩ (by decide) rfl rfl rfl (by decide)
      (and_parity (Q := 0x8000) false h (by simpa using hb) (by intro n h1 h2; simp; omega) (by decide)) (and_unmasked _)

theorem mmc3BankData (a : Addr) (d : Byte) : Statement (.mmc3BankData a d) := by
  intro h
  simp only [Instr.wellFormed, Bool.and_eq_true] at h
  obtain ⟨h, hb⟩ := h
  exact wordInRow_intro ⟨some .mmc3, "MMC3.BANK_DATA", 0x1800100, 0x7E00100⟩ (by decide) rfl rfl rfl (by decide)
      (and_parity (Q := 0x8000) true h (by simpa using hb) (by intro n h1 h2; simp; omega) (by decide)) (and_unmasked _)

theorem mmc3Mirroring (a : Addr) (d : Byte) : Statement (.mmc3Mirroring a d) := by
  intro h
  simp only [Instr.wellFormed, Bool.and_eq_true, Bool.not_eq_true'] at h
  obtain ⟨h, hb⟩ := h
  exact wordInRow_intro ⟨some .mmc3, "MMC3.MIRRORING", 0x1A00000, 0x7E00100⟩ (by decide) rfl rfl rfl (by decide)
      (and_parity (Q := 0xa000) false h (by simpa using hb) (by intro n h1 h2; simp; omega) (by decide)) (and_unmasked _)

theorem mmc3PrgRamProtect (a : Addr) (d : Byte) : Statement (.mmc3PrgRamProtect a d) := by
  intro h
  simp only [Instr.wellFormed, Bool.and_eq_true] at h
  obtain ⟨h, hb⟩ := h
  exact wordInRow_intro ⟨some .mmc3, "MMC3.PRG_RAM_PROTECT", 0x1A00100, 0x7E00100⟩ (by decide) rfl rfl rfl (by decide)
      (and_parity (Q := 0xa000) true h (by simpa using hb) (by intro n h1 h2; simp; omega) (by decide)) (and_unmasked _)

theorem mmc3IrqLatch (a : Addr) (d : Byte) : Statement (.mmc3IrqLatch a d) := by
  intro h
  simp only [Instr.wellFormed, Bool.and_eq_true, Bool.not_eq_true'] at h
  obtain ⟨h, hb⟩ := h
  exact wordInRow_intro ⟨some .mmc3, "MMC3.IRQ_LATCH", 0x1C00000, 0x7E00100⟩ (by decide) rfl rfl rfl (by decide)
      (and_parity (Q := 0xc000) false h (by simpa using hb) (by intro n h1 h2; simp; omega) (by decide)) (and_unmasked _)

theorem mmc3IrqReload (a : Addr) (d : Byte) : Statement (.mmc3IrqReload a d) := by
  intro h
  simp only [Instr.wellFormed, Bool.and_eq_true] at h
  obtain ⟨h, hb⟩ := h
  exact wordInRow_intro ⟨some .mmc3, "MMC3.IRQ_RELOAD", 0x1C00100, 0x7E00100⟩ (by decide) rfl rfl rfl (by decide)
      (and_parity (Q := 0xc000) true h (by simpa using hb) (by intro n h1 h2; simp; omega) (by decide)) (and_unmasked _)

theorem mmc3IrqDisable (a : Addr) (d : Byte) : Statement (.mmc3IrqDisable a d) := by
  intro h
  simp only [Instr.wellFormed, Bool.and_eq_true, Bool.not_eq_true'] at h
  obtain ⟨h, hb⟩ := h
  exact wordInRow_intro ⟨some .mmc3, "MMC3.IRQ_DISABLE", 0x1E00000, 0x7E00100⟩ (by decide) rfl rfl rfl (by decide)
      (and_parity (Q := 0xe000) false h (by simpa using hb) (by intro n h1 h2; simp; omega) (by decide)) (and_unmasked _)

theorem mmc3IrqEnable (a : Addr) (d : Byte) : Statement (.mmc3IrqEnable a d) := by
  intro h
  simp only [Instr.wellFormed, Bool.and_eq_true] at h
  obtain ⟨h, hb⟩ := h
  exact wordInRow_intro ⟨some .mmc3, "MMC3.IRQ_ENABLE", 0x1E00100, 0x7E00100⟩ (by decide) rfl rfl rfl (by decide)
      (and_parity (Q := 0xe000) true h (by simpa using hb) (by intro n h1 h2; simp; omega) (by decide)) (and_unmasked _)

theorem mmc3ChrRead (a : Addr) : Statement (.mmc3ChrRead a) := by
  intro h
  exact wordInRow_intro ⟨some .mmc3, "MMC3.CHR_READ", 0x2000000, 0x7E00000⟩ (by decide) rfl rfl rfl (by decide)
      (and_window (h : inWindow _ _ a = true)
        (k := 13) (by decide) (by decide) (by intro n h1 h2; simp [addrField]; omega)) (and_unmasked _)

theorem mmc3ChrWrite (a : Addr) (d : Byte) : Statement (.mmc3ChrWrite a d) := by
  intro h
  exact wordInRow_intro ⟨some .mmc3, "MMC3.CHR_WRITE", 0x3000000, 0x7E00000⟩ (by decide) rfl rfl rfl (by decide)
      (and_window (h : inWindow _ _ a = true)
        (k := 13) (by decide) (by decide) (by intro n h1 h2; simp [addrField]; omega)) (and_unmasked _)

theorem mmc3A12Rise : Statement (.mmc3A12Rise) := by
  intro _
  exact wordInRow_intro ⟨some .mmc3, "MMC3.A12_RISE", 0x4000000, 0x7000000⟩ (by decide) rfl rfl rfl (by decide) (and_unmasked _) (and_unmasked _)

theorem mmc3IrqAck : Statement (.mmc3IrqAck) := by
  intro _
  exact wordInRow_intro ⟨some .mmc3, "MMC3.IRQ_ACK", 0x5000000, 0x7000000⟩ (by decide) rfl rfl rfl (by decide) (and_unmasked _) (and_unmasked _)

end Sys2Proof.Laws.WordInRow
end

