-- ==== Sys2Proof/Tests/Slice0.lean ====
section
/-! SUPPORT. Tests: the well-formedness checks refuse what they must; words written out from the spec decode; one step
of each operation against the vectors of spec/95_test_vectors.md; and, for every statement that has hypotheses, states
and operands that meet them. Expected values come from the vectors and rules named in each docstring. OPEN_BUS is $5A
here, not the vectors' $00, so that it differs from a stored zero. -/

namespace Sys2Proof.Tests

open Sys2Proof Sys2Proof.Machine

/-! ## WellFormed: each check refuses an ill-formed term -/

/-- CPU and PPU windows, at their edges (R61, R67). -/
theorem test_wellFormed_windows :
    ∀ i ∈ [Instr.allCpuUnmappedRead 0x6000, .allCpuUnmappedWrite 0x6000 0, .allPpuUnmappedRead 0x1FFF,
      .allPpuUnmappedWrite 0x1FFF 0, .nromPrgRamRead 0x5FFF, .nromPrgRamRead 0x8000, .nromPrgRamWrite 0x8000 0,
      .nromPrgRomRead 0x7FFF, .nromPrgRomWrite 0x7FFF 0, .nromChrRead 0x2000, .nromChrWrite 0x2000 0,
      .mmc1PrgRamRead 0x5FFF, .mmc1PrgRamWrite 0x8000 0, .mmc1PrgRomRead 0x7FFF, .mmc1ChrRead 0x2000,
      .mmc1ChrWrite 0x2000 0, .uxromWramRead 0x5FFF, .uxromWramWrite 0x8000 0, .uxromPrgRomRead 0x7FFF,
      .uxromBankSelect 0x7FFF 0, .uxromChrRead 0x2000, .uxromChrWrite 0x2000 0, .cnromWramRead 0x5FFF,
      .cnromWramWrite 0x8000 0, .cnromPrgRomRead 0x7FFF, .cnromChrBankSelect 0x7FFF 0, .cnromChrRead 0x2000,
      .cnromChrWrite 0x2000 0, .mmc3PrgRamRead 0x5FFF, .mmc3PrgRamWrite 0x8000 0, .mmc3PrgRomRead 0x7FFF,
      .mmc3ChrRead 0x2000, .mmc3ChrWrite 0x2000 0], i.wellFormed = false := by decide

/-- MMC1's writes: `D[7]` and the four ranges (R170-R172). -/
theorem test_wellFormed_mmc1_writes :
    ∀ i ∈ [Instr.mmc1Reset 0x8000 0x7F, .mmc1Reset 0x7FFF 0x80, .mmc1SerialControl 0x8000 0x80,
      .mmc1SerialControl 0xA000 0, .mmc1SerialChr0 0x9FFF 0, .mmc1SerialChr0 0xA000 0x80, .mmc1SerialChr1 0xBFFF 0,
      .mmc1SerialChr1 0xC000 0x80, .mmc1SerialPrg 0xDFFF 0, .mmc1SerialPrg 0xE000 0x80], i.wellFormed = false := by
  decide

/-- MMC3's writes: the range and `A[0]` (R220). -/
theorem test_wellFormed_mmc3_writes :
    ∀ i ∈ [Instr.mmc3BankSelect 0x8001 0, .mmc3BankSelect 0xA000 0, .mmc3BankData 0x8000 0, .mmc3BankData 0xA001 0,
      .mmc3Mirroring 0xA001 0, .mmc3Mirroring 0x8000 0, .mmc3PrgRamProtect 0xA000 0, .mmc3PrgRamProtect 0xC001 0,
      .mmc3IrqLatch 0xC001 0, .mmc3IrqLatch 0xE000 0, .mmc3IrqReload 0xC000 0, .mmc3IrqReload 0xE001 0,
      .mmc3IrqDisable 0xE001 0, .mmc3IrqDisable 0xC000 0, .mmc3IrqEnable 0xE000 0, .mmc3IrqEnable 0xC001 0],
      i.wellFormed = false := by decide

/-! ## Decoding: words written out from R90 and R91, op in bits 26:24, `A` in 23:8, `D` in 7:0 -/

/-- The operations of every variant, at the edges of their ranges. -/
theorem test_decode_all :
    decode .nrom 0b000_0000000000000000_00000000 = .allCpuUnmappedRead 0x0000 ∧
    decode .mmc3 0b000_0101111111111111_00000000 = .allCpuUnmappedRead 0x5FFF ∧
    decode .uxrom 0b001_0101111111111111_00010010 = .allCpuUnmappedWrite 0x5FFF 0x12 ∧
    decode .cnrom 0b010_0010000000000000_00000000 = .allPpuUnmappedRead 0x2000 ∧
    decode .mmc1 0b011_1111111111111111_00000001 = .allPpuUnmappedWrite 0xFFFF 0x01 ∧
    decode .mmc1 0b110_0010110000000101_00000000 = .allNtMap 0xC05 ∧
    decode .mmc3 0b111_0000000000000000_00000000 = .allReserved := by decide

/-- NROM (R161-R169). -/
theorem test_decode_nrom :
    decode .nrom 0b000_0110000000010000_00000000 = .nromPrgRamRead 0x6010 ∧
    decode .nrom 0b001_0111111111111111_00000001 = .nromPrgRamWrite 0x7FFF 0x01 ∧
    decode .nrom 0b000_1111111111110000_00000000 = .nromPrgRomRead 0xFFF0 ∧
    decode .nrom 0b001_1000000000000000_11111111 = .nromPrgRomWrite 0x8000 0xFF ∧
    decode .nrom 0b010_0001111111111111_00000000 = .nromChrRead 0x1FFF ∧
    decode .nrom 0b011_0000000000010000_10101010 = .nromChrWrite 0x0010 0xAA ∧
    decode .nrom 0b100_0000000000000000_00000000 = .nromA12Rise ∧
    decode .nrom 0b101_0000000000000000_00000000 = .nromIrqAck := by decide

/-- MMC1 (R170-R187). -/
theorem test_decode_mmc1 :
    decode .mmc1 0b000_0110000100100011_00000000 = .mmc1PrgRamRead 0x6123 ∧
    decode .mmc1 0b001_0110000000000000_10000000 = .mmc1PrgRamWrite 0x6000 0x80 ∧
    decode .mmc1 0b000_1000000000000000_00000000 = .mmc1PrgRomRead 0x8000 ∧
    decode .mmc1 0b001_1011111111111111_10000000 = .mmc1Reset 0xBFFF 0x80 ∧
    decode .mmc1 0b001_1001111111111110_00000111 = .mmc1SerialControl 0x9FFE 0x07 ∧
    decode .mmc1 0b001_1010000000000000_00000001 = .mmc1SerialChr0 0xA000 0x01 ∧
    decode .mmc1 0b001_1100000000000000_01111111 = .mmc1SerialChr1 0xC000 0x7F ∧
    decode .mmc1 0b001_1111111111111111_00000000 = .mmc1SerialPrg 0xFFFF 0x00 ∧
    decode .mmc1 0b010_0001000000000101_00000000 = .mmc1ChrRead 0x1005 ∧
    decode .mmc1 0b011_0001000000000101_01110111 = .mmc1ChrWrite 0x1005 0x77 ∧
    decode .mmc1 0b100_0000000000000000_00000000 = .mmc1A12Rise ∧
    decode .mmc1 0b101_0000000000000000_00000000 = .mmc1IrqAck := by decide

/-- UxROM (R200-R208). -/
theorem test_decode_uxrom :
    decode .uxrom 0b000_0110000000000000_00000000 = .uxromWramRead 0x6000 ∧
    decode .uxrom 0b001_0110000000000000_00000001 = .uxromWramWrite 0x6000 0x01 ∧
    decode .uxrom 0b000_1111111100000011_00000000 = .uxromPrgRomRead 0xFF03 ∧
    decode .uxrom 0b001_1111111100000011_00000011 = .uxromBankSelect 0xFF03 0x03 ∧
    decode .uxrom 0b010_0000000100100011_00000000 = .uxromChrRead 0x0123 ∧
    decode .uxrom 0b011_0000000100100011_01000010 = .uxromChrWrite 0x0123 0x42 ∧
    decode .uxrom 0b100_1111111111111111_11111111 = .uxromA12Rise ∧
    decode .uxrom 0b101_1111111111111111_11111111 = .uxromIrqAck := by decide

/-- CNROM (R210-R218). -/
theorem test_decode_cnrom :
    decode .cnrom 0b000_0111111111111111_00000000 = .cnromWramRead 0x7FFF ∧
    decode .cnrom 0b001_0110000000000000_00000011 = .cnromWramWrite 0x6000 0x03 ∧
    decode .cnrom 0b000_1100000000000000_00000000 = .cnromPrgRomRead 0xC000 ∧
    decode .cnrom 0b001_1000000000000000_01111111 = .cnromChrBankSelect 0x8000 0x7F ∧
    decode .cnrom 0b010_0001111111111111_00000000 = .cnromChrRead 0x1FFF ∧
    decode .cnrom 0b011_0000000000000000_00010001 = .cnromChrWrite 0x0000 0x11 ∧
    decode .cnrom 0b100_0000000000000000_00000000 = .cnromA12Rise ∧
    decode .cnrom 0b101_0000000000000000_00000000 = .cnromIrqAck := by decide

/-- MMC3 (R220-R244). -/
theorem test_decode_mmc3 :
    decode .mmc3 0b000_0110000000000000_00000000 = .mmc3PrgRamRead 0x6000 ∧
    decode .mmc3 0b001_0110000000000000_01010101 = .mmc3PrgRamWrite 0x6000 0x55 ∧
    decode .mmc3 0b000_1110000000000000_00000000 = .mmc3PrgRomRead 0xE000 ∧
    decode .mmc3 0b001_1001111111111110_00000111 = .mmc3BankSelect 0x9FFE 0x07 ∧
    decode .mmc3 0b001_1000000000000011_00100010 = .mmc3BankData 0x8003 0x22 ∧
    decode .mmc3 0b001_1010000000000000_11111110 = .mmc3Mirroring 0xA000 0xFE ∧
    decode .mmc3 0b001_1011111111111111_10000000 = .mmc3PrgRamProtect 0xBFFF 0x80 ∧
    decode .mmc3 0b001_1100000000000000_00000001 = .mmc3IrqLatch 0xC000 0x01 ∧
    decode .mmc3 0b001_1100000000000001_11111111 = .mmc3IrqReload 0xC001 0xFF ∧
    decode .mmc3 0b001_1110000000000000_00000000 = .mmc3IrqDisable 0xE000 0x00 ∧
    decode .mmc3 0b001_1111111111111111_00000000 = .mmc3IrqEnable 0xFFFF 0x00 ∧
    decode .mmc3 0b010_0001111111111111_00000000 = .mmc3ChrRead 0x1FFF ∧
    decode .mmc3 0b011_0000010000000000_01000010 = .mmc3ChrWrite 0x0400 0x42 ∧
    decode .mmc3 0b100_0000000000000000_00000000 = .mmc3A12Rise ∧
    decode .mmc3 0b101_0000000000000000_00000000 = .mmc3IrqAck := by decide

/-- The host's two entry points: a word with a 28th bit set is no transaction (R90); the words of the reset block's
variant decode and are fetched next. -/
theorem test_tableWord_and_fetch :
    decodeTableWord 32 0x1800080 = some (.mmc3BankSelect 0x8000 0x80) ∧ decodeTableWord 32 0x8000000 = none ∧
    (State.reset.withFetchWord 32 0x62C0500).inputs = [0x62C0500] ∧
    decode State.reset.variant 0x62C0500 = .allNtMap 0xC05 := by decide

/-- The shorthand and the pseudo-instructions (R101, R102; L2-1, L3-1, L3-2). -/
theorem test_assembler :
    asmWr 0x9FFE 0x07 = 0x19FFE07 ∧ asmRd 0x4016 = 0x0401600 ∧ asmPrd 0x1FFF = 0x21FFF00 ∧
    asmPwr 0x2000 0x01 = 0x3200001 ∧ asmA12 = 0x4000000 ∧ asmAck = 0x5000000 ∧ asmNt 0x2C05 = 0x62C0500 ∧
    asmMmc1Rst = [0x1800080] ∧ asmMmc1W 0x8000 0x0E = [0x1800000, 0x1800001, 0x1800001, 0x1800001, 0x1800000] ∧
    asmMmc3R 6 0x04 0 = [0x1800006, 0x1800104] := by decide

/-- The two words of `NT $2C05`, with `A[15:12]` kept (L2-1) and with zeros there (R92, R101), decode alike. -/
theorem test_nt_words :
    asmNt 0x2C05 = 0x62C0500 ∧ encode (.allNtMap 0xC05) = 0x60C0500 ∧
    decode .mmc3 0x62C0500 = .allNtMap 0xC05 ∧ decode .mmc3 0x60C0500 = .allNtMap 0xC05 := by decide

/-! ## Sample blocks -/

/-- A configuration without battery, trainer or submapper. -/
def cfgOf (mapper : BitVec 12) (prg chr : Nat) (ram : Bool) (m : Mirroring) : Cfg :=
  { mapper := mapper, submapper := 0, prgLen := prg, chrLen := chr, chrIsRam := ram, mirroring := m,
    battery := false, fourScreen := false, trainer := none }

/-- The first byte of bank `k` of `size` bytes is `k`, for the banks given (TAG16, TAG8, CTAG). -/
def tags (size : Nat) (ks : List Nat) : Memory := ks.map fun k => (k * size, BitVec.ofNat 8 k)

/-- A block with these contents, before its first transaction. -/
def blockOf (c : Cfg) (r : Regs) (prg chr : Memory) : State :=
  { cfg := c, params := { openBus := 0x5A, nromPrgRam := true, uxromBusConflicts := false },
    prgRom := prg, chr := chr, prgRam := [], regs := r, inputs := [], reply := .nothing, started := false }

/-- NROM, 16KB PRG, CHR-RAM; PRG byte $3FF0 is $F0. -/
def nromS : State := blockOf (cfgOf 0 16384 8192 true .horizontal) .nrom [(0x3FF0, 0xF0)] []

/-- NROM, 32KB PRG, CHR-ROM, no PRG-RAM. -/
def nromRomS : State :=
  { blockOf (cfgOf 0 32768 8192 false .vertical) .nrom (tags 16384 [1]) (tags 1024 [1, 2, 3]) with
    params := { openBus := 0x5A, nromPrgRam := false, uxromBusConflicts := false } }

/-- MMC1, 128KB PRG, CHR-RAM. -/
def mmc1S : State :=
  blockOf (cfgOf 1 131072 8192 true .horizontal) (.mmc1 mmc1Reset) (tags 16384 [1, 2, 3, 4, 5, 6, 7]) []

/-- MMC1 with these registers. -/
def mmc1With (shift : BitVec 5) (count : BitVec 3) (control chr0 chr1 prg : BitVec 5) : State :=
  { mmc1S with regs := .mmc1 ⟨shift, count, control, chr0, chr1, prg⟩ }

/-- UxROM, 128KB PRG, CHR-RAM; PRG offsets $1FF05 and $1FF0D (bank 7) hold 5 and $0D. -/
def uxromS : State :=
  blockOf (cfgOf 2 131072 8192 true .vertical) (.uxrom ⟨0⟩)
    (tags 16384 [1, 2, 3, 4, 5, 6, 7] ++ [(0x1FF05, 0x05), (0x1FF0D, 0x0D)]) []

/-- The same with bus conflicts on. -/
def uxromConflictS : State :=
  { uxromS with params := { openBus := 0x5A, nromPrgRam := true, uxromBusConflicts := true } }

/-- CNROM, 32KB PRG, 32KB CHR-ROM. -/
def cnromS : State :=
  blockOf (cfgOf 3 32768 32768 false .vertical) (.cnrom ⟨0⟩) (tags 16384 [1]) (tags 1024 [8, 15, 16, 23, 24])

/-- CNROM with CHR-RAM and bank 0. -/
def cnromRamS : State := blockOf (cfgOf 3 16384 8192 true .vertical) (.cnrom ⟨0⟩) [] []

/-- MMC3, 256KB PRG, 128KB CHR-ROM. -/
def mmc3S : State :=
  blockOf (cfgOf 4 262144 131072 false .horizontal) (.mmc3 (mmc3Reset .horizontal))
    (tags 8192 [1, 2, 4, 5, 30, 31]) (tags 1024 [8, 9, 12, 13, 20, 21, 22, 72])

/-- MMC3 with CHR-RAM. -/
def mmc3RamS : State :=
  blockOf (cfgOf 4 8192 8192 true .vertical) (.mmc3 (mmc3Reset .vertical)) [] []

/-- A sample with other MMC3 registers. -/
def mmc3With (f : Mmc3 → Mmc3) : State := { mmc3S with regs := .mmc3 (f (mmc3Reset .horizontal)) }

/-- The sample blocks. -/
def samples : List State :=
  [nromS, nromRomS, mmc1S, mmc1With 0b01010 4 0x0C 3 9 0x15, uxromS, uxromConflictS, cnromS, cnromRamS, mmc3S,
    mmc3RamS, State.reset]

/-- Every sample meets the invariant. -/
theorem test_samples_meet_invariant : ∀ s ∈ samples, s.Inv := by decide

/-- The state after the word `w`. -/
def after (s : State) (w : TWord) : Option State :=
  match step { s with inputs := [w] } with
  | .next t => some t
  | _ => none

/-- What the word `w` returns. -/
def returns (s : State) (w : TWord) : Option Reply := (after s w).map (·.reply)

/-- The registers after the word `w`. -/
def regsAfter (s : State) (w : TWord) : Option Regs := (after s w).map (·.regs)

/-- The mode after the word `w`. -/
def modeAfter (s : State) (w : TWord) : Option Mirroring := (after s w).map (·.mirroring)

/-- The request after the word `w`. -/
def irqAfter (s : State) (w : TWord) : Option Bool := (after s w).map (·.irqPending)

/-- Nothing but the queue, the reply and the mark of the first transaction differs after the word `w`. -/
def unchangedBy (s : State) (w : TWord) : Bool :=
  after s w == some { s with reply := .nothing, started := true }

/-! ## Every variant -/

/-- A read outside the windows returns OPEN_BUS, a write changes nothing (R61; L2-4 rows 13-15). -/
theorem test_unmapped :
    returns nromS 0x05FFF00 = some (.byte 0x5A) ∧ returns mmc1S 0x2200000 = some (.byte 0x5A) ∧
    unchangedBy nromS 0x1500012 = true ∧ unchangedBy mmc3S 0x3200001 = true := by decide

/-- The resolver's table (L2-2), rows $2400, $2800, $2C05, $3C05. -/
theorem test_resolver :
    ([.horizontal, .vertical, .singleScreenLower, .singleScreenUpper, .fourScreen].map fun m =>
      [resolve m 0x2400, resolve m 0x2800, resolve m 0x2C05, resolve m 0x3C05]) =
    [[0x000, 0x400, 0x405, 0x405], [0x400, 0x000, 0x405, 0x405], [0x000, 0x000, 0x005, 0x005],
     [0x400, 0x400, 0x405, 0x405], [0x400, 0x800, 0xC05, 0xC05]] := by decide

/-- NT_MAP through the block (L2-4 rows 16, 17; L2-2's last lines) and the bank view (R127). -/
theorem test_ntMap :
    returns nromS 0x6240000 = some (.offset 0x000) ∧ returns nromS 0x6280000 = some (.offset 0x400) ∧
    returns (mmc1With 0 0 0x00 0 0 0) 0x62C0500 = some (.offset 0x005) ∧
    returns (mmc1With 0 0 0x01 0 0 0) 0x62C0500 = some (.offset 0x405) ∧ vramBank .fourScreen 0x2C05 = 3 := by decide

/-- Op 111 is refused (L2-10). -/
theorem test_reserved : after nromS 0x7000000 = none ∧ after mmc3S 0x7FFFFFF = none := by decide

/-! ## NROM (L2-4) -/

theorem test_nrom_prgRam :
    (after nromS 0x160105A).map (·.prgRam) = some [(0x10, 0x5A)] ∧
    returns { nromS with prgRam := [(0x1FFF, 0x01)] } 0x07FFF00 = some (.byte 0x01) := by decide

theorem test_nrom_no_prgRam :
    unchangedBy nromRomS 0x160105A = true ∧ returns nromRomS 0x0601000 = some (.byte 0x5A) := by decide

/-- A 16KB image shows in both halves, a 32KB image does not (L1-2); writes are ignored. -/
theorem test_nrom_prgRom :
    returns nromS 0x0BFF000 = some (.byte 0xF0) ∧ returns nromS 0x0FFF000 = some (.byte 0xF0) ∧
    returns nromRomS 0x0800000 = some (.byte 0x00) ∧ returns nromRomS 0x0C00000 = some (.byte 0x01) ∧
    unchangedBy nromS 0x18000FF = true := by decide

/-- CHR-RAM is written, CHR-ROM is not (L2-4 rows 10-12 and its last paragraph). -/
theorem test_nrom_chr :
    (after nromS 0x30010AA).map (·.chr) = some [(0x10, 0xAA)] ∧
    returns { nromS with chr := [(0x10, 0xAA)] } 0x2001000 = some (.byte 0xAA) ∧
    returns nromS 0x21FFF00 = some (.byte 0x00) ∧
    unchangedBy nromRomS 0x30410AA = true ∧ returns nromRomS 0x2041000 = some (.byte 0x00) ∧
    returns nromRomS 0x2040000 = some (.byte 0x01) := by decide

theorem test_nrom_signals : unchangedBy nromS 0x4000000 = true ∧ unchangedBy nromS 0x5000000 = true := by decide

/-! ## MMC1 -/

/-- Row 2 and row 5 of L1-3's first table. -/
theorem test_mmc1_serialControl :
    regsAfter (mmc1With 0b00000 1 0x0C 0 0 0) 0x1800001 = some (.mmc1 ⟨0b00010, 2, 0x0C, 0, 0, 0⟩) ∧
    regsAfter (mmc1With 0b01010 4 0x0C 0 0 0) 0x1800001 = some (.mmc1 ⟨0, 0, 0b11010, 0, 0, 0⟩) := by decide

/-- Row 3 of L1-3's second table; row 9 of L2-5 (a reset at $9FFF ignores `D[0]`). -/
theorem test_mmc1_reset :
    regsAfter (mmc1With 0b00011 2 0b11010 0 0 0) 0x1800080 = some (.mmc1 ⟨0, 0, 0b11110, 0, 0, 0⟩) ∧
    regsAfter (mmc1With 0b00001 1 0x0C 21 0 0) 0x19FFFC1 = some (.mmc1 ⟨0, 0, 0x0C, 21, 0, 0⟩) := by decide

/-- Rows 2 and 5 of L2-5: the fifth write's address chooses CHR bank 0. -/
theorem test_mmc1_serialChr0 :
    regsAfter (mmc1With 0b00001 1 0x0C 0 0 0) 0x1A00000 = some (.mmc1 ⟨0b00001, 2, 0x0C, 0, 0, 0⟩) ∧
    regsAfter (mmc1With 0b00101 4 0x0C 0 0 0) 0x1A00001 = some (.mmc1 ⟨0, 0, 0x0C, 21, 0, 0⟩) := by decide

/-- Row 3 of L2-5 (`D[6:1]` ignored); a fifth write to $C000-$DFFF (R176). -/
theorem test_mmc1_serialChr1 :
    regsAfter (mmc1With 0b00001 2 0x0C 0 0 0) 0x1C0007F = some (.mmc1 ⟨0b00101, 3, 0x0C, 0, 0, 0⟩) ∧
    regsAfter (mmc1With 0b00101 4 0x0C 7 0 0) 0x1DFFF01 = some (.mmc1 ⟨0, 0, 0x0C, 7, 21, 0⟩) := by decide

/-- Row 4 of L2-5; row 7 of L2-5's PRG-RAM table. -/
theorem test_mmc1_serialPrg :
    regsAfter (mmc1With 0b00101 3 0x0C 0 0 0) 0x1E0007E = some (.mmc1 ⟨0b00101, 4, 0x0C, 0, 0, 0⟩) ∧
    regsAfter (mmc1With 0 4 0x0C 0 0 0) 0x1E00001 = some (.mmc1 ⟨0, 0, 0x0C, 0, 0, 0x10⟩) := by decide

/-- The PRG banks of L2-5, `n_prg16` 8, bank field 5 then 6, modes 0 to 3. -/
theorem test_mmc1_prgRomRead :
    ([0b00000, 0b00100, 0b01000, 0b01100].map fun c => [5, 6].map fun b =>
      (returns (mmc1With 0 0 c 0 0 b) 0x0800000, returns (mmc1With 0 0 c 0 0 b) 0x0C00000)) =
    [[(some (.byte 4), some (.byte 5)), (some (.byte 6), some (.byte 7))],
     [(some (.byte 4), some (.byte 5)), (some (.byte 6), some (.byte 7))],
     [(some (.byte 0), some (.byte 5)), (some (.byte 0), some (.byte 6))],
     [(some (.byte 5), some (.byte 7)), (some (.byte 6), some (.byte 7))]] := by decide

/-- Three banks, mode 0, bank field 2 gives (2, 0): each bank of the pair is reduced by itself (L2-5). -/
theorem test_mmc1_prgRomRead_odd_count :
    (let s := { mmc1With 0 0 0 0 0 2 with cfg := cfgOf 1 49152 8192 true .horizontal, prgRom := tags 16384 [1, 2] }
     (returns s 0x0800000, returns s 0x0C00000)) = (some (.byte 2), some (.byte 0)) := by decide

/-- The CHR banks of L2-5: 128KB CHR-ROM, four of its rows. -/
theorem test_mmc1_chrRead :
    (let rom (c c0 c1 : BitVec 5) : State := { mmc1With 0 0 c c0 c1 0 with
       cfg := cfgOf 1 131072 131072 false .horizontal, chr := tags 1024 [8, 12, 36, 120, 124] }
     [(0x0C, 3, 9), (0x0C, 31, 0), (0x1C, 3, 9), (0x1C, 31, 1)].map fun (c, c0, c1) =>
       (returns (rom c c0 c1) 0x2000000, returns (rom c c0 c1) 0x2100000)) =
    [(some (.byte 0x08), some (.byte 0x0C)), (some (.byte 0x78), some (.byte 0x7C)),
     (some (.byte 0x0C), some (.byte 0x24)), (some (.byte 0x7C), some (.byte 0x00))] := by decide

/-- L3-1 row 27: CHR-RAM at $1005. -/
theorem test_mmc1_chrWrite : (after mmc1S 0x3100577).map (·.chr) = some [(0x1005, 0x77)] := by decide

/-- L2-5's PRG-RAM gate: rows 1, 2, 8, 9; and row 6 of its first table (a $6000 write with `D[7]` is no reset). -/
theorem test_mmc1_prgRam :
    (after mmc1S 0x1612342).map (·.prgRam) = some [(0x123, 0x42)] ∧
    returns { mmc1S with prgRam := [(0x123, 0x42)] } 0x0612300 = some (.byte 0x42) ∧
    returns { mmc1With 0 0 0x0C 0 0 0x10 with prgRam := [(0x123, 0x42)] } 0x0612300 = some (.byte 0x5A) ∧
    unchangedBy (mmc1With 0 0 0x0C 0 0 0x10) 0x1612399 = true ∧
    regsAfter (mmc1With 1 1 0x0C 0 0 0) 0x1600080 = some (.mmc1 ⟨1, 1, 0x0C, 0, 0, 0⟩) := by decide

theorem test_mmc1_signals : unchangedBy mmc1S 0x4000000 = true ∧ unchangedBy mmc1S 0x5000000 = true := by decide

/-- `control[1:0]` gives the mode (L2-5). -/
theorem test_mmc1_mirroring :
    ([0x0C, 0x0D, 0x0E, 0x0F].map fun c => (mmc1With 0 0 c 0 0 0).mirroring) =
    [.singleScreenLower, .singleScreenUpper, .vertical, .horizontal] := by decide

/-! ## UxROM (L2-6, L1-7) -/

/-- Wrap and any address. -/
theorem test_uxrom_bankSelect :
    regsAfter uxromS 0x180000B = some (.uxrom ⟨3⟩) ∧ regsAfter uxromS 0x1FFFF02 = some (.uxrom ⟨2⟩) := by decide

/-- Bus conflicts: mismatch dropped, match taken, match with wrap. -/
theorem test_uxrom_busConflict :
    unchangedBy uxromConflictS 0x1800005 = true ∧ regsAfter uxromConflictS 0x1FF0505 = some (.uxrom ⟨5⟩) ∧
    regsAfter uxromConflictS 0x1FF0D0D = some (.uxrom ⟨5⟩) := by decide

/-- The low half shows the selected bank, the high half the last. -/
theorem test_uxrom_prgRomRead :
    returns { uxromS with regs := .uxrom ⟨6⟩ } 0x0800000 = some (.byte 6) ∧
    returns { uxromS with regs := .uxrom ⟨6⟩ } 0x0C00000 = some (.byte 7) := by decide

theorem test_uxrom_wram_and_signals :
    unchangedBy uxromS 0x1600003 = true ∧ returns uxromS 0x0600000 = some (.byte 0x5A) ∧
    unchangedBy uxromS 0x4000000 = true ∧ unchangedBy uxromS 0x5000000 = true := by decide

/-- CHR-RAM; an 8KB CHR-ROM image. -/
theorem test_uxrom_chr :
    (after uxromS 0x3123442).map (·.chr) = some [(0x1234, 0x42)] ∧
    returns { uxromS with chr := [(0x1234, 0x42)] } 0x2123400 = some (.byte 0x42) ∧
    unchangedBy { uxromS with cfg := cfgOf 2 131072 8192 false .vertical } 0x3040042 = true := by decide

/-! ## CNROM (L1-5, L2-7, L3-4) -/

/-- The values of L1-5. -/
theorem test_cnrom_chrBankSelect :
    ([0x1800000, 0x1800001, 0x1800003, 0x1800004, 0x1800006, 0x180007F, 0x18000FF].map fun w =>
      regsAfter cnromS w) =
    [some (.cnrom ⟨0⟩), some (.cnrom ⟨1⟩), some (.cnrom ⟨3⟩), some (.cnrom ⟨0⟩), some (.cnrom ⟨2⟩),
     some (.cnrom ⟨3⟩), some (.cnrom ⟨3⟩)] := by decide

/-- L3-4 rows 3, 4: the first byte and the last 1KB of bank 2; row 5: the write is dropped. -/
theorem test_cnrom_chr :
    returns { cnromS with regs := .cnrom ⟨2⟩ } 0x2000000 = some (.byte 0x10) ∧
    returns { cnromS with regs := .cnrom ⟨2⟩ } 0x21C0000 = some (.byte 0x17) ∧
    unchangedBy { cnromS with regs := .cnrom ⟨2⟩ } 0x3000011 = true ∧
    (after cnromRamS 0x3001066).map (·.chr) = some [(0x10, 0x66)] := by decide

theorem test_cnrom_prgRomRead :
    returns cnromS 0x0800000 = some (.byte 0x00) ∧ returns cnromS 0x0C00000 = some (.byte 0x01) ∧
    returns { cnromRamS with prgRom := [(0x3FF0, 0xF0)] } 0x0FFF000 = some (.byte 0xF0) := by decide

theorem test_cnrom_wram_and_signals :
    unchangedBy cnromS 0x1600003 = true ∧ returns cnromS 0x0600000 = some (.byte 0x5A) ∧
    unchangedBy cnromS 0x4000000 = true ∧ unchangedBy cnromS 0x5000000 = true := by decide

/-! ## MMC3 (L2-8, L2-9) -/

/-- Rows 5 and 2 of L2-8. -/
theorem test_mmc3_bankSelect :
    regsAfter mmc3S 0x18000F9 =
      some (.mmc3 { mmc3Reset .horizontal with sel := 1, prgMode := true, chrMode := true }) ∧
    regsAfter mmc3S 0x19FFE07 = some (.mmc3 { mmc3Reset .horizontal with sel := 7 }) := by decide

/-- Rows 1 and 3 of L2-8. -/
theorem test_mmc3_bankData :
    regsAfter mmc3S 0x180010A = some (.mmc3 { mmc3Reset .horizontal with r := #v[10, 0, 0, 0, 0, 0, 0, 0] }) ∧
    regsAfter (mmc3With fun r => { r with sel := 7 }) 0x19FFF03 =
      some (.mmc3 { mmc3Reset .horizontal with sel := 7, r := #v[0, 0, 0, 0, 0, 0, 0, 3] }) := by decide

/-- Rows 7 and 8 of L2-8: only `D[0]` counts. -/
theorem test_mmc3_mirroring :
    modeAfter mmc3S 0x1A000FE = some .vertical ∧ modeAfter mmc3RamS 0x1BFFE01 = some .horizontal := by decide

/-- Rows 9 and 10 of L2-8. -/
theorem test_mmc3_prgRamProtect :
    regsAfter mmc3S 0x1A00140 = some (.mmc3 { mmc3Reset .horizontal with ramEnable := false, ramProtect := true }) ∧
    regsAfter (mmc3With fun r => { r with ramEnable := false, ramProtect := true }) 0x1A00180 =
      some (.mmc3 (mmc3Reset .horizontal)) := by decide

/-- MMC3 with R6 = 4, R7 = 5 and the CHR registers of L2-8. -/
def mmc3Banks (prgMode chrMode : Bool) : State :=
  mmc3With fun r => { r with prgMode := prgMode, chrMode := chrMode, r := #v[9, 12, 20, 21, 22, 200, 4, 5] }

/-- The PRG windows of L2-8, `n_prg8` 32, both modes. -/
theorem test_mmc3_prgRomRead :
    ([false, true].map fun m => [0x0800000, 0x0A00000, 0x0C00000, 0x0E00000].map fun w =>
      returns (mmc3Banks m false) w) =
    [[some (.byte 0x04), some (.byte 0x05), some (.byte 0x1E), some (.byte 0x1F)],
     [some (.byte 0x1E), some (.byte 0x05), some (.byte 0x04), some (.byte 0x1F)]] := by decide

/-- The PRG windows of L2-8 with one and with two banks. -/
theorem test_mmc3_prgRomRead_few_banks :
    (let s (n : Nat) (m : Bool) : State := { mmc3Banks m false with
       cfg := cfgOf 4 (n * 8192) 131072 false .horizontal, prgRom := tags 8192 ((List.range n).drop 1) }
     [s 1 false, s 1 true, s 2 false, s 2 true, s 3 false, s 3 true].map fun s =>
       [returns s 0x0800000, returns s 0x0A00000, returns s 0x0C00000, returns s 0x0E00000]) =
    [[some (.byte 0), some (.byte 0), some (.byte 0), some (.byte 0)],
     [some (.byte 0), some (.byte 0), some (.byte 0), some (.byte 0)],
     [some (.byte 0), some (.byte 1), some (.byte 0), some (.byte 1)],
     [some (.byte 0), some (.byte 1), some (.byte 0), some (.byte 1)],
     [some (.byte 1), some (.byte 2), some (.byte 1), some (.byte 2)],
     [some (.byte 1), some (.byte 2), some (.byte 1), some (.byte 2)]] := by decide

/-- The CHR windows of L2-8, `n_chr1` 128, both modes. -/
theorem test_mmc3_chrRead :
    ([false, true].map fun m =>
      [0x2000000, 0x2040000, 0x2080000, 0x20C0000, 0x2100000, 0x2140000, 0x2180000, 0x21C0000].map fun w =>
        returns (mmc3Banks false m) w) =
    [[some (.byte 0x08), some (.byte 0x09), some (.byte 0x0C), some (.byte 0x0D),
      some (.byte 0x14), some (.byte 0x15), some (.byte 0x16), some (.byte 0x48)],
     [some (.byte 0x14), some (.byte 0x15), some (.byte 0x16), some (.byte 0x48),
      some (.byte 0x08), some (.byte 0x09), some (.byte 0x0C), some (.byte 0x0D)]] := by decide

/-- CHR-ROM writes are dropped (R244); CHR-RAM is written through the bank that slot 1 shows, R0 or 1 (R231). -/
theorem test_mmc3_chrWrite :
    unchangedBy mmc3S 0x3040042 = true ∧ (after mmc3RamS 0x3040042).map (·.chr) = some [(0x400, 0x42)] := by decide

/-- The PRG-RAM table of L2-8; the byte was $11. -/
theorem test_mmc3_prgRam :
    (let s (e p : Bool) : State :=
       { mmc3With (fun r => { r with ramEnable := e, ramProtect := p }) with prgRam := [(0, 0x11)] }
     [s true false, s true true, s false false, s false true].map fun s =>
       ((after s 0x1600055).map (·.prgRam), returns s 0x0600000)) =
    [(some [(0, 0x55)], some (.byte 0x11)), (some [(0, 0x11)], some (.byte 0x11)),
     (some [(0, 0x11)], some (.byte 0x5A)), (some [(0, 0x11)], some (.byte 0x5A))] := by decide

/-- Rows 1 and 2 of L2-9's third table; row 3 of L2-9's first. -/
theorem test_mmc3_irq_registers :
    regsAfter mmc3S 0x1C00002 = some (.mmc3 { mmc3Reset .horizontal with irqLatch := 2 }) ∧
    regsAfter mmc3S 0x1C001FF = some (.mmc3 { mmc3Reset .horizontal with irqReload := true }) ∧
    regsAfter mmc3S 0x1E00100 = some (.mmc3 { mmc3Reset .horizontal with irqEnable := true }) := by decide

/-- Row 8 of L2-9's first table: a disable clears the request; row 5: an acknowledge does, and leaves enable. -/
theorem test_mmc3_irq_clear :
    regsAfter (mmc3With fun r => { r with irqEnable := true, irqPending := true }) 0x1E00000 =
      some (.mmc3 (mmc3Reset .horizontal)) ∧
    regsAfter (mmc3With fun r => { r with irqEnable := true, irqPending := true }) 0x5000000 =
      some (.mmc3 { mmc3Reset .horizontal with irqEnable := true }) := by decide

/-- L1-4 rows 4 and 7; L2-9: latch 0 raises at once, a disabled count of 1 goes to 0 and raises nothing, a reload wins
over a count, a pending request stays. -/
theorem test_mmc3_a12Rise :
    (let s (l c : BitVec 8) (rl e p : Bool) : State :=
       mmc3With fun r => { r with irqLatch := l, irqCounter := c, irqReload := rl, irqEnable := e, irqPending := p }
     [(s 3 0 true true false, s 3 3 false true false), (s 3 1 false true false, s 3 0 false true true),
      (s 0 0 true true false, s 0 0 false true true), (s 5 1 false false false, s 5 0 false false false),
      (s 2 5 true true false, s 2 2 false true false), (s 4 0 false true true, s 4 4 false true true)].all
       fun (x, y) => regsAfter x 0x4000000 == some y.regs) = true := by decide

theorem test_mmc3_irqPending :
    irqAfter (mmc3With fun r => { r with irqLatch := 3, irqCounter := 1, irqEnable := true }) 0x4000000 = some true ∧
    irqAfter (mmc3With fun r => { r with irqLatch := 3, irqCounter := 2, irqEnable := true }) 0x4000000 = some false := by
  decide

/-! ## Construction (L1-6, L2-3) -/

/-- A header: the magic, bytes 4 to 9, six zero bytes. -/
def header (b4 b5 b6 b7 b8 b9 : Byte) : List Byte :=
  [0x4E, 0x45, 0x53, 0x1A, b4, b5, b6, b7, b8, b9, 0, 0, 0, 0, 0, 0]

/-- Bad magic; a 3-byte buffer; a 10-byte buffer. -/
theorem test_parse_short :
    parse [0x4E, 0x45, 0x53, 0x00, 0, 0, 0, 0, 0, 0, 0, 0, 0, 0, 0, 0] = .error .invalidMagic ∧
    parse [0x4E, 0x45, 0x53] = .error .invalidMagic ∧
    parse [0x4E, 0x45, 0x53, 0x1A, 0, 0, 0, 0, 0, 0] = .error .sizeMismatch := by decide

/-- Formats 01 and 11; one byte short, one byte long; a trainer flag without trainer bytes. -/
theorem test_parse_errors :
    (∀ t, parse (header 1 1 0 0x04 0 0 ++ t) = .error .unsupportedFormat) ∧
    (∀ t, parse (header 1 1 0 0x0C 0 0 ++ t) = .error .unsupportedFormat) ∧
    (∀ t, t.length = 24575 ∨ t.length = 24577 → parse (header 1 1 0 0 0 0 ++ t) = .error .sizeMismatch) ∧
    (∀ t, t.length = 24576 → parse (header 1 1 4 0 0 0 ++ t) = .error .sizeMismatch) := by
  refine ⟨fun t => ?_, fun t => ?_, fun t h => ?_, fun t h => ?_⟩ <;> rw [parse_append t rfl]
  · rfl
  · rfl
  · rw [show declaredLength (header 1 1 0 0 0 0) = 24592 by decide, show Config.headerSize = 16 from rfl]
    rw [if_neg (by decide), if_neg (by decide), if_pos (by omega)]
  · rw [show declaredLength (header 1 1 4 0 0 0) = 25104 by decide, show Config.headerSize = 16 from rfl]
    rw [if_neg (by decide), if_neg (by decide), if_pos (by omega)]

/-- The headers of L1-6 and of twelve images of L2-3. -/
def headers : List (List Byte) :=
  [header 2 1 0 0 0 0, header 1 1 0x09 0 0 0, header 1 1 0x06 0 0 0, header 8 0 0x10 0 0 0,
   header 0x10 0x10 0x40 0 0 0, header 1 1 0x40 0x10 0 0, header 1 1 0 0 1 0, header 1 1 0 8 1 0,
   header 1 1 0x40 8 0x10 0, header 0 1 0 8 0 1, header 0x3C 1 0 8 0 0x0F, header 0x3D 1 0x10 8 0 0x0F,
   header 0x34 1 0 8 0 0x0F]

/-- Their declared lengths, PRG sizes and CHR sizes. -/
theorem test_header_sizes :
    headers.map (fun h => (declaredLength h, headerPrgSize h, headerChrSize h)) =
    [(40976, 32768, 8192), (24592, 16384, 8192), (25104, 16384, 8192), (131088, 131072, 0),
     (393232, 262144, 131072), (24592, 16384, 8192), (24592, 16384, 8192), (24592, 16384, 8192),
     (24592, 16384, 8192), (4202512, 4194304, 8192), (40976, 32768, 8192), (106512, 98304, 8192),
     (8208, 0, 8192)] := by decide

/-- Their mapper and submapper numbers. -/
theorem test_header_numbers :
    headers.map headerMapper = [0, 0, 0, 1, 4, 20, 0, 256, 4, 0, 0, 1, 0] ∧
    headers.map headerSubmapper = [0, 0, 0, 0, 0, 0, 0, 0, 1, 0, 0, 0, 0] := by decide

/-- Mirroring, battery, four-screen and trainer: L1-6 and the "vertical", "four-screen overrides" and
"trainer + battery" images of L2-3. -/
theorem test_header_flags :
    [header 2 1 0 0 0 0, header 1 1 0x01 0 0 0, header 1 1 0x09 0 0 0, header 1 1 0x06 0 0 0].map (fun h =>
      (headerMirroring h, [headerBattery h, headerFourScreen h, headerTrainer h])) =
    [(.horizontal, [false, false, false]), (.vertical, [false, false, false]), (.fourScreen, [false, true, false]),
     (.horizontal, [true, false, true])] := by decide

/-- The configurations of L2-3 the check refuses, and two at the edge that it passes. -/
theorem test_configOk :
    configOk .nrom (cfgOf 0 49152 8192 false .horizontal) = false ∧
    configOk .nrom (cfgOf 0 0 8192 false .horizontal) = false ∧
    configOk .nrom (cfgOf 0 4194304 8192 false .horizontal) = false ∧
    configOk .uxrom (cfgOf 2 32768 16384 false .horizontal) = false ∧
    configOk .cnrom (cfgOf 3 65536 16384 false .horizontal) = false ∧
    configOk .uxrom (cfgOf 2 32768 8192 false .horizontal) = true ∧
    configOk .mmc1 (cfgOf 1 49152 8192 false .horizontal) = true := by decide

/-- The image of `State.reset` (log entry 1): 128KB of zeros, no CHR bytes. -/
def resetImage : RomImage :=
  { mapper := 4, submapper := 0, mirroring := .horizontal, battery := false, fourScreen := false, trainer := none,
    prg := List.replicate 131072 Config.unlistedByte, chr := [] }

/-- `State.reset` is the block the factory builds from that image. -/
theorem test_reset_is_a_created_block : create resetParams [] [] resetImage = .block State.reset := by
  have hl : resetImage.prg.length = 131072 := List.length_replicate
  have hP : resetImage.cfg.prgLen = 131072 := hl
  have hC : resetImage.cfg.chrLen = 8192 := rfl
  have hcfg : resetImage.cfg = resetCfg := congrArg (fun n => { resetCfg with prgLen := n }) hl
  have hm : Memory.ofBytes resetImage.prg = [] := Memory.ofBytes_replicate _
  refine create_block.2 ⟨.mmc3, rfl, ?_, ?_⟩
  · rw [configOk, hP, hC]; decide
  · rw [hcfg]
    simp only [construct, hm]
    rfl

/-- The values of R48 at reset: MMC3's registers, the empty memories in canonical form. -/
theorem test_reset_values :
    State.reset.regs = .mmc3 ⟨0, false, false, #v[0, 0, 0, 0, 0, 0, 0, 0], true, true, false, 0, 0, false, false,
      false, false⟩ ∧
    Memory.wf State.reset.prgRom = true ∧ Memory.wf State.reset.chr = true ∧ Memory.wf State.reset.prgRam = true ∧
    State.reset.inputs = [] ∧ State.reset.started = false := by decide

/-- The registers of the other variants after construction (R48). -/
theorem test_constructed_registers :
    regsReset .horizontal .mmc1 = .mmc1 ⟨0, 0, 0x0C, 0, 0, 0⟩ ∧ regsReset .vertical .uxrom = .uxrom ⟨0⟩ ∧
    regsReset .vertical .cnrom = .cnrom ⟨0⟩ ∧ (mmc3Reset .vertical).mirror = false ∧
    (mmc3Reset .fourScreen).mirror = false := by decide

/-- The memory laws on a small array: the default byte is not listed, a later write wins. -/
theorem test_memory_canonical :
    Memory.write [(2, 7), (5, 1)] 2 0 = [(5, 1)] ∧ Memory.write [(2, 7), (5, 1)] 3 4 = [(2, 7), (3, 4), (5, 1)] ∧
    Memory.write [(2, 7)] 9 0 = [(2, 7)] ∧ Memory.wf [(2, 7), (2, 1)] = false ∧ Memory.wf [(2, 0)] = false := by decide

/-- Error codes (R261). -/
theorem test_error_codes :
    [romErrorCode .invalidMagic, romErrorCode .unsupportedFormat, romErrorCode .sizeMismatch, romErrorCode .io,
      mapperErrorCode (.unsupportedMapper 5)] = [1, 2, 3, 4, 5] ∧
    [.horizontal, .vertical, .singleScreenLower, .singleScreenUpper, .fourScreen].map mirroringCode =
      [0, 1, 2, 3, 4] := by decide

/-! ## Images that parse and images that build -/

/-- An image with header `h` and `n` zero bytes after it. -/
def imageOf (h : List Byte) (n : Nat) : List Byte := h ++ List.replicate n 0

/-- It parses when the header is sound and `n` is what it declares. -/
theorem imageOf_parses {h : List Byte} {n : Nat} (hh : h.length = Config.headerSize) (hm : h.take 4 = magic)
    (hf : formatBits h = 0 ∨ formatBits h = 2) (hn : Config.headerSize + n = declaredLength h) :
    parse (imageOf h n) = .ok (parseBody (imageOf h n)) := by
  rw [imageOf, parse_append _ hh, if_neg (not_not.2 hm), if_neg (by tauto), if_neg (by simpa using hn)]

/-- L1-6; L2-3 "MMC1 with CHR-RAM", "trainer + battery" and "extended submapper". -/
theorem test_parse_ok :
    parse (imageOf (header 2 1 0 0 0 0) 40960) = .ok (parseBody (imageOf (header 2 1 0 0 0 0) 40960)) ∧
    parse (imageOf (header 8 0 0x10 0 0 0) 131072) = .ok (parseBody (imageOf (header 8 0 0x10 0 0 0) 131072)) ∧
    parse (imageOf (header 1 1 6 0 0 0) 25088) = .ok (parseBody (imageOf (header 1 1 6 0 0 0) 25088)) ∧
    parse (imageOf (header 1 1 0x40 8 0x10 0) 24576) = .ok (parseBody (imageOf (header 1 1 0x40 8 0x10 0) 24576)) :=
  ⟨imageOf_parses rfl rfl (by decide) (by decide), imageOf_parses rfl rfl (by decide) (by decide),
    imageOf_parses rfl rfl (by decide) (by decide), imageOf_parses rfl rfl (by decide) (by decide)⟩

/-- A parsed image with `p` PRG bytes and `c` CHR bytes. -/
def romOf (m : BitVec 12) (p c : Nat) : RomImage :=
  { mapper := m, submapper := 0, mirroring := .horizontal, battery := false, fourScreen := false, trainer := none,
    prg := List.replicate p 1, chr := List.replicate c 2 }

/-- The parameters of the vectors but for OPEN_BUS. -/
def testParams : Params := { openBus := 0x5A, nromPrgRam := true, uxromBusConflicts := false }

/-- 8192 bytes of initial contents. -/
def initBytes : List Byte := List.replicate 8192 3

theorem romOf_builds {m : BitVec 12} {v : Variant} {p c : Nat} (hv : variantOf m = some v)
    (hc : configOk v (cfgOf m p (if c = 0 then 8192 else c) (decide (c = 0)) .horizontal) = true) :
    create testParams initBytes initBytes (romOf m p c) =
      .block (construct v (romOf m p c).cfg testParams initBytes initBytes (romOf m p c).prg (romOf m p c).chr) := by
  refine create_block.2 ⟨v, hv, ?_, rfl⟩
  have h : (romOf m p c).cfg = cfgOf m p (if c = 0 then 8192 else c) (decide (c = 0)) .horizontal := by
    cases c <;> simp [RomImage.cfg, romOf, cfgOf, List.replicate_succ, Config.chrRamSize]
  rw [h]
  exact hc

/-- Blocks at the edges of R152: the smallest and odd sizes of each variant, CHR-RAM and CHR-ROM. -/
theorem test_create_builds :
    ∀ x ∈ [((0 : BitVec 12), Variant.nrom, 16384, 0), (0, .nrom, 32768, 8192), (1, .mmc1, 16384, 0),
      (1, .mmc1, 49152, 16384), (2, .uxrom, 16384, 0), (2, .uxrom, 131072, 8192), (3, .cnrom, 16384, 0),
      (3, .cnrom, 32768, 24576), (4, .mmc3, 8192, 0), (4, .mmc3, 24576, 1024)],
      ∃ s, create testParams initBytes initBytes (romOf x.1 x.2.2.1 x.2.2.2) = .block s ∧ s.variant = x.2.1 := by
  intro x hx
  simp only [List.mem_cons, List.not_mem_nil, or_false] at hx
  rcases hx with rfl | rfl | rfl | rfl | rfl | rfl | rfl | rfl | rfl | rfl <;>
    exact ⟨_, romOf_builds rfl (by decide), construct_variant ..⟩

/-- The factory refuses other mapper numbers and configurations that fail the check (R150, R152). -/
theorem test_create_fails :
    create testParams [] [] (romOf 5 1 0) = .error (.unsupportedMapper 5) ∧
    create testParams [] [] (romOf 0 0 0) = .refused ∧ create testParams [] [] (romOf 3 1 0) = .refused :=
  ⟨rfl, rfl, rfl⟩

/-! ## Witnesses: states and operands that meet the hypotheses of each statement -/

/-- The transaction answers a next state. -/
def completes (i : Instr) (s : State) : Bool :=
  match exec i s with
  | .next _ => true
  | _ => false

/-- DecodeOfEncodeIsIdentity, at the edges of the windows. -/
theorem test_witness_DecodeOfEncodeIsIdentity :
    ∀ x ∈ [(Variant.nrom, Instr.nromPrgRamRead 0x6000), (.mmc1, .mmc1Reset 0xFFFF 0x80),
      (.mmc1, .mmc1SerialChr0 0xBFFF 0x7F), (.uxrom, .uxromBankSelect 0x8000 0xFF), (.cnrom, .cnromChrWrite 0x1FFF 0xFF),
      (.mmc3, .mmc3BankData 0x9FFF 0xFF), (.mmc3, .allNtMap 0xFFF), (.nrom, .allPpuUnmappedRead 0x2000),
      (.mmc3, .allCpuUnmappedWrite 0x5FFF 1), (.mmc1, .allReserved)],
      x.2.wellFormed = true ∧ x.2.inVariant x.1 = true := by decide

/-- IgnoredFieldsDoNotChangeDecoding: a read with two data, a strobe with all of its fields changed, a resolve with
`A[15:12]` and `D` changed, a write with nothing changed. -/
theorem test_witness_IgnoredFieldsDoNotChangeDecoding :
    (opField 0x0800000 = opField 0x08000FF ∧ addrField 0x0800000 = addrField 0x08000FF ∧ opField 0x0800000 = 0) ∧
    (opField 0x4000000 = opField 0x4FFFFFF ∧ opField 0x4000000 = 4) ∧
    (opField 0x62C0500 = opField 0x6FC05FF ∧ opField 0x62C0500 = 6 ∧
      (addrField 0x62C0500).extractLsb' 0 12 = (addrField 0x6FC05FF).extractLsb' 0 12) ∧
    (opField 0x19FFE07 = 1 ∧ addrField 0x19FFE07 = 0x9FFE ∧ dataField 0x19FFE07 = 0x07) := by decide

/-- StepRunsDecodedTransaction, both clauses. -/
theorem test_witness_StepRunsDecodedTransaction :
    ({ mmc3S with inputs := [0x18000F9, 0x180010A] } : State).inputs = 0x18000F9 :: [0x180010A] ∧
    mmc3S.inputs = [] := by decide

/-- ReservedOpIsRefused and the second clause of OnlyTheReservedOpIsNotExecuted, at both ends of the range. -/
theorem test_witness_ReservedOpIsRefused :
    (({ mmc1S with inputs := [0x7000000] } : State).inputs = 0x7000000 :: [] ∧ opField 0x7000000 = 7) ∧
    (({ mmc3S with inputs := [0x7FFFFFF] } : State).inputs = 0x7FFFFFF :: [] ∧ opField 0x7FFFFFF = 7) := by decide

/-- OnlyTheReservedOpIsNotExecuted: the last word that runs, the first that does not, no word. -/
theorem test_witness_OnlyTheReservedOpIsNotExecuted :
    (({ uxromConflictS with inputs := [0x6FFFFFF] } : State).Inv ∧ opField 0x6FFFFFF ≠ 7) ∧
    (({ mmc1S with inputs := [0x7000000] } : State).Inv ∧ opField 0x7000000 = 7) ∧
    (State.reset.Inv ∧ State.reset.inputs = []) := by decide

/-- ForeignOperationIsRefused. -/
theorem test_witness_ForeignOperationIsRefused :
    (Instr.mmc3BankSelect 0x8000 0).variant? = some .mmc3 ∧ nromS.variant ≠ .mmc3 ∧
    Instr.nromIrqAck.variant? = some .nrom ∧ mmc3S.variant ≠ .nrom := by decide

/-- The invariant holds and the word `w` completes. -/
def stepsFrom (s : State) (w : TWord) : Bool := ({ s with inputs := [w] } : State).inv && (after s w).isSome

/-- StepKeepsInvariant, NoTransactionWritesConfiguration and VariantAndIdentityAreFixed: steps that write registers,
PRG-RAM and CHR, from states with CHR-RAM and with CHR-ROM. -/
theorem test_witness_StepKeepsInvariant :
    stepsFrom nromS 0x160105A = true ∧ stepsFrom mmc1S 0x1800001 = true ∧ stepsFrom mmc1S 0x3100577 = true ∧
    stepsFrom uxromConflictS 0x1FF0505 = true ∧ stepsFrom cnromS 0x3000011 = true ∧
    stepsFrom cnromS 0x18000FF = true ∧ stepsFrom mmc3S 0x4000000 = true ∧
    cnromS.cfg.chrIsRam = false ∧ mmc1S.cfg.chrIsRam = true := by decide

/-- CreatedBlockMeetsInvariant, ValuesAfterConstruction (with CHR-RAM and with CHR-ROM, with and without PRG-RAM) and
TopOfWindowShowsTheLastBank (at both ends of the window). -/
theorem test_witness_created :
    (∃ s, create testParams initBytes initBytes (romOf 4 8192 0) = .block s ∧ hasPrgRam s.variant testParams = true) ∧
    (∃ s, create testParams initBytes initBytes (romOf 3 32768 24576) = .block s) ∧
    initBytes.length = 8192 ∧ (romOf 4 8192 0).chr = [] ∧ (romOf 3 32768 24576).chr ≠ [] ∧
    0xE000 ≤ (0xE000 : Addr).toNat ∧ 0xE000 ≤ (0xFFFF : Addr).toNat := by
  refine ⟨⟨_, romOf_builds rfl (by decide), ?_⟩, ⟨_, romOf_builds rfl (by decide)⟩, List.length_replicate, rfl, ?_, by decide,
    by decide⟩
  · rw [construct_variant]; rfl
  · intro h
    have := congrArg List.length h
    rw [romOf, List.length_replicate] at this
    cases this

/-- ReadsChangeNoState, one read of each kind. -/
theorem test_witness_ReadsChangeNoState :
    ∀ x ∈ [(Instr.nromPrgRamRead 0x7FFF, nromS), (.nromPrgRomRead 0xFFFF, nromS), (.mmc1ChrRead 0x1FFF, mmc1S),
      (.uxromWramRead 0x6000, uxromS), (.cnromChrRead 0, cnromS), (.mmc3PrgRamRead 0x6000, mmc3S),
      (.allNtMap 0xFFF, mmc3S), (.allPpuUnmappedRead 0xFFFF, mmc3S)],
      isRead x.1 = true ∧ completes x.1 x.2 = true := by decide

/-- The invariant holds and the transaction changes byte `o` of the array `f`. -/
def changesByte (f : State → Memory) (s : State) (i : Instr) (o : Nat) : Bool :=
  s.inv && match exec i s with
    | .next t => Memory.read (f t) o != Memory.read (f s) o
    | _ => false

/-- PrgRamChangesOnlyAtTheStoredByte, through each of the three operations, at both ends of PRG-RAM. -/
theorem test_witness_PrgRamChangesOnlyAtTheStoredByte :
    changesByte State.prgRam nromS (.nromPrgRamWrite 0x6000 0x55) 0 = true ∧
    changesByte State.prgRam mmc1S (.mmc1PrgRamWrite 0x7FFF 0x55) 8191 = true ∧
    changesByte State.prgRam mmc3RamS (.mmc3PrgRamWrite 0x6000 0x55) 0 = true := by decide

/-- ChrChangesOnlyAtTheStoredByte, through each of the five operations. -/
theorem test_witness_ChrChangesOnlyAtTheStoredByte :
    changesByte State.chr nromS (.nromChrWrite 0x1FFF 0x55) 8191 = true ∧
    changesByte State.chr mmc1S (.mmc1ChrWrite 0x1005 0x55) 0x1005 = true ∧
    changesByte State.chr uxromS (.uxromChrWrite 0 0x55) 0 = true ∧
    changesByte State.chr cnromRamS (.cnromChrWrite 0x0010 0x66) 0x10 = true ∧
    changesByte State.chr mmc3RamS (.mmc3ChrWrite 0x0400 0x42) 0x400 = true := by decide

/-- RegistersChangeOnlyByRomWritesAndSignals: writes at both ends of the range, a rise and an acknowledge. -/
theorem test_witness_RegistersChangeOnlyByRomWritesAndSignals :
    ∀ x ∈ [(mmc1S, (0x1800001 : TWord)), (uxromS, 0x1FFFF02), (cnromS, 0x1800001), (mmc3S, 0x1FFFF00),
      (mmc3With fun r => { r with irqLatch := 3 }, 0x4000000),
      (mmc3With fun r => { r with irqPending := true }, 0x5000000)],
      (match step { x.1 with inputs := [x.2] } with
        | .next t => t.regs != x.1.regs
        | _ => false) = true := by decide

/-- RegisterAddressesAlias: both ends of a range, per variant. -/
theorem test_witness_RegisterAddressesAlias :
    0x8000 ≤ (0x8000 : Addr).toNat ∧ 0x8000 ≤ (0xFFFF : Addr).toNat ∧
    (mmc3S.variant = .mmc3 ∧ region 0x8000 = region 0x9FFE ∧ (0x8000 : Addr).getLsbD 0 = (0x9FFE : Addr).getLsbD 0) ∧
    (mmc1S.variant = .mmc1 ∧ region 0xE000 = region 0xFFFF) ∧ cnromS.variant = .cnrom ∧
    (uxromS.variant = .uxrom ∧ uxromS.params.uxromBusConflicts = false) := by decide

/-- BankIndicesAreRemaindersInRange, rows of L1-1 among them, and a UxROM and a CNROM with their last banks. -/
theorem test_witness_BankIndicesAreRemaindersInRange :
    (∀ x ∈ [(0, 1, 0), (255, 1, 0), (7, 8, 7), (8, 8, 0), (10, 8, 2), (255, 3, 0), (31, 3, 1), (200, 128, 72)],
      0 < x.2.1 ∧ Machine.norm x.1 x.2.1 = x.2.2) ∧
    ({ uxromS with regs := .uxrom ⟨7⟩ } : State).Inv ∧ ({ cnromS with regs := .cnrom ⟨3⟩ } : State).Inv := by decide

/-- ChrWritesTakeEffectOnlyInRam, at the last byte of CHR-RAM and of CHR-ROM. -/
theorem test_witness_ChrWritesTakeEffectOnlyInRam :
    (mmc1S.Inv ∧ mmc1S.cfg.chrIsRam = true ∧ 8191 < mmc1S.cfg.chrLen) ∧
    (cnromS.Inv ∧ cnromS.cfg.chrIsRam = false ∧ 32767 < cnromS.cfg.chrLen) := by decide

/-- NametableMapAnswersTheResolver, with ignored fields set. -/
theorem test_witness_NametableMapAnswersTheResolver :
    ({ mmc1S with inputs := [0x6FC05FF] } : State).inputs = 0x6FC05FF :: [] ∧ opField 0x6FC05FF = 6 := by decide

/-- ResolverFoldsNametables and ResolverFourScreenAndBankView, the clauses with a premise. -/
theorem test_witness_ResolverFourScreenAndBankView :
    (0x2FFF : Addr).toNat % 4096 = (0xFFFF : Addr).toNat % 4096 ∧ Mirroring.singleScreenUpper ≠ .fourScreen := by decide

/-- MirroringOutputPerVariant: each variant, each value of `control[1:0]`, each value of the mirroring register. -/
theorem test_witness_MirroringOutputPerVariant :
    nromS.variant = .nrom ∧ uxromS.variant = .uxrom ∧ cnromS.variant = .cnrom ∧
    (∀ c ∈ [(0 : BitVec 5), 1, 2, 31], (mmc1With 0 0 c 0 0 0).regs = .mmc1 ⟨0, 0, c, 0, 0, 0⟩) ∧
    [(0 : BitVec 5), 1, 2, 31].map (fun c => c.toNat % 4) = [0, 1, 2, 3] ∧
    mmc3S.regs = .mmc3 (mmc3Reset .horizontal) ∧ (mmc3Reset .horizontal).mirror = true ∧
    mmc3RamS.regs = .mmc3 (mmc3Reset .vertical) ∧ (mmc3Reset .vertical).mirror = false := by decide

/-- NromPrgRamFollowsTheParameter, NromPrgRomReadMirrorsSmallImages and NromRomWritesAndChrWindow: both values of the
parameter, a 16KB and a 32KB image, the last offset, CHR-RAM and CHR-ROM. -/
theorem test_witness_nrom :
    (nromS.Inv ∧ nromS.regs = .nrom ∧ nromS.params.nromPrgRam = true ∧ nromS.cfg.prgLen = 16384 ∧ 0x3FFF < 0x4000 ∧
      nromS.cfg.chrIsRam = true) ∧
    (nromRomS.Inv ∧ nromRomS.regs = .nrom ∧ nromRomS.params.nromPrgRam = false ∧ nromRomS.cfg.prgLen = 32768 ∧
      nromRomS.cfg.chrIsRam = false) := by decide

/-- SignalsAreNoOpsOutsideMmc3. -/
theorem test_witness_SignalsAreNoOpsOutsideMmc3 :
    nromS.variant = .nrom ∧ mmc1S.variant = .mmc1 ∧ uxromS.variant = .uxrom ∧ cnromS.variant = .cnrom ∧
    nromS.variant ≠ .mmc3 := by decide

/-- Mmc1PrgRamGate, both values of the gate, and Mmc1ResetWriteForcesMode3, inside a sequence. -/
theorem test_witness_mmc1_gate_and_reset :
    (mmc1With 3 2 0x1A 0 0 0x0F).Inv ∧ (mmc1With 3 2 0x1A 0 0 0x1F).Inv ∧
    (mmc1With 3 2 0x1A 0 0 0x0F).regs = .mmc1 ⟨3, 2, 0x1A, 0, 0, 0x0F⟩ ∧ (0x0F : BitVec 5).getLsbD 4 = false ∧
    (mmc1With 3 2 0x1A 0 0 0x1F).regs = .mmc1 ⟨3, 2, 0x1A, 0, 0, 0x1F⟩ ∧ (0x1F : BitVec 5).getLsbD 4 = true := by decide

/-- Mmc1PrgRomReadByMode: the four modes, both slots at their edges. -/
theorem test_witness_Mmc1PrgRomReadByMode :
    (∀ c ∈ [(0x00 : BitVec 5), 0x04, 0x08, 0x0C], (mmc1With 0 0 c 0 0 0x1F).Inv ∧
      (mmc1With 0 0 c 0 0 0x1F).regs = .mmc1 ⟨0, 0, c, 0, 0, 0x1F⟩) ∧
    [(0x00 : BitVec 5), 0x04, 0x08, 0x0C].map (fun c => c.toNat / 4 % 4) = [0, 1, 2, 3] ∧
    [(0x8000 : Addr), 0xBFFF, 0xC000, 0xFFFF].map (fun a => a.toNat / 16384 % 2) = [0, 0, 1, 1] := by decide

/-- Mmc1ChrAccessByMode: both modes, both slots at their edges. -/
theorem test_witness_Mmc1ChrAccessByMode :
    (∀ c ∈ [(0x0C : BitVec 5), 0x1C], (mmc1With 0 0 c 31 30 0).Inv ∧
      (mmc1With 0 0 c 31 30 0).regs = .mmc1 ⟨0, 0, c, 31, 30, 0⟩) ∧
    (0x0C : BitVec 5).getLsbD 4 = false ∧ (0x1C : BitVec 5).getLsbD 4 = true ∧
    [(0x0000 : Addr), 0x0FFF, 0x1000, 0x1FFF].map (fun a => a.toNat / 4096 % 2) = [0, 0, 1, 1] := by decide

/-- The address premises of the decoding clauses (NromRomWritesAndChrWindow, CnromPrgAndChrWindows,
Mmc1SerialControl, Mmc3LatchReloadDisable), at the edges of the ranges. -/
theorem test_witness_ranges :
    0x8000 ≤ (0x8000 : Addr).toNat ∧ 0x8000 ≤ (0xFFFF : Addr).toNat ∧ (0x0000 : Addr).toNat < 0x2000 ∧
    (0x1FFF : Addr).toNat < 0x2000 ∧ [(0x8000 : Addr), 0x9FFF].map (fun a => a.toNat / 8192) = [4, 4] ∧
    [(0xC000 : Addr), 0xDFFE, 0xC001, 0xDFFF, 0xE000, 0xFFFE].map (fun a => (a.toNat / 8192, a.toNat % 2)) =
      [(6, 0), (6, 0), (6, 1), (6, 1), (7, 0), (7, 0)] := by decide

/-- Mmc1SerialControl and Mmc1SerialBankRegisters: a count below 4 and a count of 4. -/
theorem test_witness_mmc1_serial :
    (mmc1With 0b0101 3 0x0C 0 0 0).regs = .mmc1 ⟨0b0101, 3, 0x0C, 0, 0, 0⟩ ∧ (3 : BitVec 3).toNat ≠ 4 ∧
    (mmc1With 0b0101 4 0x0C 0 0 0).regs = .mmc1 ⟨0b0101, 4, 0x0C, 0, 0, 0⟩ ∧ (4 : BitVec 3).toNat = 4 := by decide

/-- An MMC1 with five serial writes waiting, the first four in other ranges than the fifth, and one more word. -/
def fiveWritesS (a4 : Addr) : State :=
  { mmc1S with inputs := [asmWr 0x8000 0x7F, asmWr 0xFFFF 0, asmWr 0xA000 1, asmWr 0xC000 0, asmWr a4 1, asmAck] }

/-- Mmc1FiveWritesFillTheFifthTarget: a state with the five words waiting. -/
theorem test_witness_five_writes_wait (a4 : Addr) :
    (fiveWritesS a4).regs = .mmc1 mmc1Reset ∧ (fiveWritesS a4).inputs =
      asmWr 0x8000 0x7F :: asmWr 0xFFFF 0 :: asmWr 0xA000 1 :: asmWr 0xC000 0 :: asmWr a4 1 :: [asmAck] := by
  unfold fiveWritesS
  exact ⟨rfl, rfl⟩

/-- Mmc1FiveWritesFillTheFifthTarget: the registers, addresses and data of those words, and the fifth write at the
edges of each of the four ranges. -/
theorem test_witness_Mmc1FiveWritesFillTheFifthTarget :
    mmc1Reset.shift = 0 ∧ mmc1Reset.count = 0 ∧
    (∀ a ∈ [(0x8000 : Addr), 0xFFFF, 0xA000, 0xC000], 0x8000 ≤ a.toNat) ∧
    (∀ d ∈ [(0x7F : Byte), 0, 1, 0, 1], d.getLsbD 7 = false) ∧
    [(0x8000 : Addr), 0x9FFF, 0xA000, 0xBFFF, 0xC000, 0xDFFF, 0xE000, 0xFFFF].map (fun a => a.toNat / 8192) =
      [4, 4, 5, 5, 6, 6, 7, 7] :=
  ⟨by decide, by decide, by simp, by decide, by decide⟩

/-- UxromBankSelect and UxromWindows: bus conflicts off; on with a datum that differs and with one that agrees. -/
theorem test_witness_uxrom :
    (uxromS.Inv ∧ uxromS.regs = .uxrom ⟨0⟩ ∧ uxromS.params.uxromBusConflicts = false) ∧
    (uxromConflictS.Inv ∧ uxromConflictS.regs = .uxrom ⟨0⟩ ∧ uxromConflictS.params.uxromBusConflicts = true) ∧
    uxromConflictS.cfg.prgLen / 16384 = 8 ∧
    (5 : Byte) ≠ Memory.read uxromConflictS.prgRom 0 ∧ (5 : Byte) = Memory.read uxromConflictS.prgRom 0x1FF05 := by
  decide

/-- CnromBankSelectAndWramWindow and CnromPrgAndChrWindows: CHR-ROM with the last bank, CHR-RAM. -/
theorem test_witness_cnrom :
    (({ cnromS with regs := .cnrom ⟨3⟩ } : State).Inv ∧ cnromS.variant = .cnrom ∧ cnromS.cfg.chrIsRam = false) ∧
    (cnromRamS.Inv ∧ cnromRamS.regs = .cnrom ⟨0⟩ ∧ cnromRamS.cfg.chrIsRam = true) := by decide

/-- Mmc3BankSelectAndData, Mmc3MirroringProtectEnableAcknowledge, Mmc3LatchReloadDisable and Mmc3PrgRamGates: the
registers after construction and all four values of the two gates. -/
theorem test_witness_mmc3_registers :
    mmc3S.regs = .mmc3 (mmc3Reset .horizontal) ∧
    ∀ e ∈ [false, true], ∀ p ∈ [false, true],
      (mmc3With fun r => { r with ramEnable := e, ramProtect := p }).Inv ∧
      (mmc3With fun r => { r with ramEnable := e, ramProtect := p }).regs =
        .mmc3 { mmc3Reset .horizontal with ramEnable := e, ramProtect := p } := by decide

/-- Mmc3A12RiseCounts: a reload by the zero counter, a reload by the flag, a decrement. -/
theorem test_witness_Mmc3A12RiseCounts :
    let counting (c : BitVec 8) (l : Bool) : Mmc3 := { mmc3Reset .horizontal with irqCounter := c, irqReload := l }
    (∀ c ∈ [(0 : BitVec 8), 1, 5], ∀ l ∈ [false, true], (mmc3With fun _ => counting c l).regs = .mmc3 (counting c l)) ∧
    (counting 0 false).irqCounter.toNat = 0 ∧ (counting 5 true).irqReload = true ∧
    (counting 1 false).irqCounter.toNat ≠ 0 ∧ (counting 1 false).irqReload = false := by decide

/-- Mmc3CountingLaw: about to reload in both ways, with the smallest and the largest latch. -/
theorem test_witness_Mmc3CountingLaw :
    let about (l c : BitVec 8) (f : Bool) : Mmc3 :=
      { mmc3Reset .horizontal with irqLatch := l, irqCounter := c, irqReload := f, irqEnable := true }
    ∀ l ∈ [(0 : BitVec 8), 3, 255],
      (mmc3With fun _ => about l 0 false).regs = .mmc3 (about l 0 false) ∧ (about l 0 false).irqCounter = 0 ∧
      (mmc3With fun _ => about l 7 true).regs = .mmc3 (about l 7 true) ∧ (about l 7 true).irqReload = true ∧
      (about l 0 false).irqEnable = true ∧ (about l 7 true).irqEnable = true ∧ 0 ≤ l.toNat := by decide

/-- Mmc3PrgRomReadByMode: both modes, the four slots at their edges, one bank and many. -/
theorem test_witness_Mmc3PrgRomReadByMode :
    (mmc3Banks false false).Inv ∧ (mmc3Banks true false).Inv ∧ mmc3RamS.Inv ∧
    mmc3RamS.regs = .mmc3 (mmc3Reset .vertical) ∧ mmc3RamS.cfg.prgLen / 8192 = 1 ∧
    [(0x8000 : Addr), 0x9FFF, 0xA000, 0xC000, 0xE000, 0xFFFF].map (fun a => a.toNat / 8192 % 4) =
      [0, 0, 1, 2, 3, 3] := by decide

/-- Mmc3ChrAccessByMode: both modes, the eight slots, CHR-ROM and CHR-RAM. -/
theorem test_witness_Mmc3ChrAccessByMode :
    (mmc3Banks false false).Inv ∧ (mmc3Banks false true).Inv ∧ mmc3RamS.Inv ∧ mmc3RamS.cfg.chrIsRam = true ∧
    [(0x0000 : Addr), 0x0400, 0x0800, 0x0C00, 0x1000, 0x1400, 0x1800, 0x1FFF].map (fun a =>
      (a.toNat / 1024 % 8, (a.toNat / 1024 + 4) % 8)) =
      [(0, 4), (1, 5), (2, 6), (3, 7), (4, 0), (5, 1), (6, 2), (7, 3)] := by decide

/-- InterruptRequestIsSetAndClearedOnlyAsStated: a rise that raises, an acknowledge and a disable that clear, an enable
and a disable that change the enable. -/
theorem test_witness_InterruptRequestIsSetAndClearedOnlyAsStated :
    (let s (c : BitVec 8) (e p : Bool) : State := mmc3With fun r => { r with irqCounter := c, irqEnable := e, irqPending := p }
     (s 1 true false).irqPending = false ∧ irqAfter (s 1 true false) 0x4000000 = some true ∧
     (s 1 true true).irqPending = true ∧ irqAfter (s 1 true true) 0x5000000 = some false ∧
     irqAfter (s 1 true true) 0x1E00000 = some false ∧
     regsAfter (s 0 false false) 0x1E00100 = some (s 0 true false).regs ∧
     regsAfter (s 0 true false) 0x1E00000 = some (s 0 false false).regs) ∧
    decode .mmc3 0x1E00100 = .mmc3IrqEnable 0xE001 0 ∧ decode .mmc3 0x1E00000 = .mmc3IrqDisable 0xE000 0 ∧
    decode .mmc3 0x5000000 = .mmc3IrqAck ∧ decode .mmc3 0x4000000 = .mmc3A12Rise := by decide

/-- ParseChecksInOrder: the premises of each clause, at the lengths where they meet. -/
theorem test_witness_ParseChecksInOrder :
    ([0x4E, 0x45, 0x53] : List Byte).length < 4 ∧
    (header 1 1 0 0 0 0).take 4 = [0x4E, 0x45, 0x53, 0x1A] ∧ 16 ≤ (header 1 1 0 0 0 0).length ∧
    ((header 1 1 0 0 0 0).take 15).length < 16 ∧ ((header 1 1 0 0 0 0).take 15).take 4 = [0x4E, 0x45, 0x53, 0x1A] ∧
    (imageByte (header 1 1 0 0x04 0 0) 7).toNat / 4 % 2 = 1 ∧ (imageByte (header 1 1 0 0x08 0 0) 7).toNat / 4 % 2 = 0 ∧
    (header 1 1 0 0 0 0).length ≠ declaredLength (header 1 1 0 0 0 0) := by decide

/-- HeaderMirroringAndChrRam and HeaderFieldsAndLayout: images that parse, with and without CHR bytes, with and without a
trainer, in both formats. -/
theorem test_witness_headers :
    (∃ rom, parse (imageOf (header 2 1 0 0 0 0) 40960) = .ok rom) ∧
    (∃ rom, parse (imageOf (header 8 0 0x10 0 0 0) 131072) = .ok rom) ∧
    (∃ rom, parse (imageOf (header 1 1 6 0 0 0) 25088) = .ok rom) ∧
    (∃ rom, parse (imageOf (header 1 1 0x40 8 0x10 0) 24576) = .ok rom) ∧
    headerChrSize (header 2 1 0 0 0 0) ≠ 0 ∧ headerChrSize (header 8 0 0x10 0 0 0) = 0 ∧
    (let bare := header 0 0 0 0 0 0
     bare.take 4 = [0x4E, 0x45, 0x53, 0x1A] ∧ 16 ≤ bare.length ∧ (imageByte bare 7).toNat / 4 % 2 = 0 ∧
     headerChrSize bare = 0 ∧ bare.length = declaredLength bare) :=
  ⟨⟨_, test_parse_ok.1⟩, ⟨_, test_parse_ok.2.1⟩, ⟨_, test_parse_ok.2.2.1⟩, ⟨_, test_parse_ok.2.2.2⟩, by decide,
    by decide, by decide⟩

/-- FactoryTable and ConfigurationCheckDecidesConstruction: the mapper numbers at the edges of the clauses, and a
configuration of a known variant that is refused. -/
theorem test_witness_factory :
    [(0 : BitVec 12), 1, 2, 3, 4, 5, 4095].map (fun m => decide (m.toNat < 5)) =
      [true, true, true, true, true, false, false] ∧
    (∃ s, create testParams initBytes initBytes (romOf 1 16384 0) = .block s) ∧
    create testParams [] [] (romOf 0 0 0) = .refused :=
  ⟨by decide, ⟨_, romOf_builds rfl (by decide)⟩, rfl⟩

/-- An MMC1 with a battery. -/
def batteryS : State := { mmc1S with cfg := { cfgOf 1 131072 8192 true .horizontal with battery := true } }

/-- BatteryRamView: a block with the view, 8192 bytes to load, a first step that closes it. -/
theorem test_witness_BatteryRamView :
    batteryS.sram.isSome = true ∧ (batteryS.loadSram initBytes).isSome = true ∧ batteryS.started = false ∧
    (after batteryS 0x1600055).isSome = true ∧ nromS.sram = none := by
  have h : batteryS.hasSram = true := by decide
  refine ⟨by rw [State.sram_of h]; rfl, ?_, rfl, by decide, State.sram_none (by decide)⟩
  have hl : initBytes.length = Config.prgRamSize := List.length_replicate
  rw [State.loadSram_eq_some.2 ⟨h, rfl, hl, rfl⟩]
  rfl

end Sys2Proof.Tests
end

section
/-! SUPPORT. What no step changes: a view of the state that every effect of a transaction and the fetch of a word
keep, every step keeps. Then the scope statement (R2, R21). -/

namespace Sys2Proof.Machine

variable {i : Instr} {s t : State}

/-- A view of the state that taking a word from the queue and every effect of a transaction leave alone is the same
after every step. -/
theorem step_keeps {α : Type} {view : State → α} (htake : ∀ s ws, view (s.take ws) = view s)
    (heffect : ∀ {i s t}, Effect i s t → view t = view s) (h : step s = .next t) : view t = view s := by
  obtain ⟨-, rfl⟩ | ⟨w, ws, -, h⟩ := step_next h
  · rfl
  · exact (heffect (exec_effect h)).trans (htake s ws)

theorem Effect.cfg_eq (h : Effect i s t) : t.cfg = s.cfg := by
  cases h <;> simp

/-- New registers are of the old variant; no other effect touches the registers. -/
theorem Effect.variant_eq (h : Effect i s t) : t.variant = s.variant := by
  cases h with
  | registers q _ hv _ => simpa using hv
  | _ => simp

theorem step_cfg (h : step s = .next t) : t.cfg = s.cfg := step_keeps State.take_cfg Effect.cfg_eq h

theorem step_variant (h : step s = .next t) : t.variant = s.variant :=
  step_keeps State.take_variant Effect.variant_eq h

/-- The factory's table row by row (R150). -/
theorem variantOf_eq_some {m : BitVec 12} {v : Variant} : variantOf m = some v ↔
    (m.toNat = 0 ∧ v = .nrom) ∨ (m.toNat = 1 ∧ v = .mmc1) ∨ (m.toNat = 2 ∧ v = .uxrom) ∨
    (m.toNat = 3 ∧ v = .cnrom) ∨ (m.toNat = 4 ∧ v = .mmc3) := by
  unfold variantOf
  generalize m.toNat = n
  match n with
  | 0 | 1 | 2 | 3 | 4 => simp [eq_comm]
  | n + 5 => simp

/-- Settles O15: the factory's table by its rows; the variant and the configuration, whose numbers the identity
outputs are, survive every effect a step can have. -/
theorem variantAndIdentityAreFixed : Obligations.VariantAndIdentityAreFixed := by
  refine ⟨fun _ _ => variantOf_eq_some, fun _ => ⟨rfl, rfl⟩, fun s t h => ⟨step_variant h, ?_, ?_⟩⟩
  · exact congrArg Cfg.mapper (step_cfg h)
  · exact congrArg Cfg.submapper (step_cfg h)

end Sys2Proof.Machine
end

section
/-! SUPPORT. What the shared CHR write stores, in the vocabulary of the statements about the variants' CHR windows.
Then the storage statement (R65). -/

namespace Sys2Proof.Machine

variable {s : State}

/-- The shared CHR write answers a next state in which only the written byte of CHR-RAM can differ; the invariant is
needed because a read after a write is only specified on canonical storage. -/
theorem State.writeChr_stores {o : Nat} (hi : s.Inv) (ho : o < s.cfg.chrLen) (v : Byte) :
    ∃ t, s.writeChr o v = .next t ∧ storesChr s t o v := by
  cases hr : s.cfg.chrIsRam with
  | false =>
    exact ⟨_, State.writeChr_rom hr, rfl, fun p => by simp [hr]⟩
  | true =>
    have hread := Memory.read_write hi.chr_wf o v
    refine ⟨_, State.writeChr_ram hr ho, rfl, fun p => ⟨?_, ?_⟩⟩
    · rintro ⟨-, rfl⟩
      simp [hread]
    · intro hp
      have hne : p ≠ o := fun h => hp ⟨hr, h⟩
      simp [hread, hne]

/-- Settles O22: below the end of CHR the shared read and write are total, and the write is `storesChr`. -/
theorem chrWritesTakeEffectOnlyInRam : Obligations.ChrWritesTakeEffectOnlyInRam := by
  intro s o v hi ho
  obtain ⟨t, hw, hframe, hbytes⟩ := State.writeChr_stores hi ho v
  refine ⟨State.readChr_of_lt ho, t, hw, hframe, fun p => ?_⟩
  split_ifs with hp
  · exact (hbytes p).1 hp
  · exact (hbytes p).2 hp

end Sys2Proof.Machine
end

section
/-! SUPPORT. The resolver in arithmetic: its offset as a bank number times 1KB plus the offset in the nametable. Then
the resolver's statement (R120, R122-R125). -/

namespace Sys2Proof.Machine

/-- The field of `n` bits at bit `i` of the address's low 12 bits, as a number. -/
theorem low12_field_toNat (A : Addr) (i n : Nat) :
    ((A.extractLsb' 0 12).extractLsb' i n).toNat = A.toNat % 4096 / 2 ^ i % 2 ^ n := by
  simp only [BitVec.extractLsb'_toNat, Nat.shiftRight_eq_div_pow, Nat.pow_zero, Nat.div_one]

/-- Putting bits before `n` others is addition in the place value `2 ^ n`. -/
theorem append_toNat_eq_add {m n : Nat} (hi : BitVec m) (lo : BitVec n) :
    (hi ++ lo).toNat = hi.toNat * 2 ^ n + lo.toNat := by
  rw [BitVec.toNat_append, ← Nat.shiftLeft_add_eq_or_of_lt lo.isLt, Nat.shiftLeft_eq]

/-- The resolver reads the low 12 bits of the address alone (R120). -/
theorem resolve_congr (m : Mirroring) {A B : Addr} (h : A.toNat % 4096 = B.toNat % 4096) :
    resolve m A = resolve m B := by
  have hlow : A.extractLsb' 0 12 = B.extractLsb' 0 12 :=
    BitVec.eq_of_toNat_eq (by simpa using h)
  simp only [resolve, hlow]

/-- Horizontal: bit 11 selects the nametable (R122). -/
theorem resolve_horizontal_toNat (A : Addr) :
    (resolve .horizontal A).toNat = A.toNat / 2048 % 2 * 1024 + A.toNat % 1024 := by
  simp only [resolve, append_toNat_eq_add, low12_field_toNat, BitVec.ofNat_eq_ofNat, BitVec.toNat_ofNat]
  omega

/-- Vertical: bit 10 selects the nametable (R123). -/
theorem resolve_vertical_toNat (A : Addr) :
    (resolve .vertical A).toNat = A.toNat / 1024 % 2 * 1024 + A.toNat % 1024 := by
  simp only [resolve, append_toNat_eq_add, low12_field_toNat, BitVec.ofNat_eq_ofNat, BitVec.toNat_ofNat]
  omega

/-- SingleScreenLower: always the low nametable (R124). -/
theorem resolve_singleScreenLower_toNat (A : Addr) :
    (resolve .singleScreenLower A).toNat = A.toNat % 1024 := by
  simp only [resolve, append_toNat_eq_add, low12_field_toNat, BitVec.ofNat_eq_ofNat, BitVec.toNat_ofNat]
  omega

/-- SingleScreenUpper: always the high nametable (R125). -/
theorem resolve_singleScreenUpper_toNat (A : Addr) :
    (resolve .singleScreenUpper A).toNat = 1024 + A.toNat % 1024 := by
  simp only [resolve, append_toNat_eq_add, low12_field_toNat, BitVec.ofNat_eq_ofNat, BitVec.toNat_ofNat]
  omega

/-- Settles O25: the resolver masks its address first, and each mode is a bank number before the offset in the
nametable. -/
theorem resolverFoldsNametables : Obligations.ResolverFoldsNametables :=
  ⟨fun m _ _ => resolve_congr m, fun A => ⟨resolve_horizontal_toNat A, resolve_vertical_toNat A,
    resolve_singleScreenLower_toNat A, resolve_singleScreenUpper_toNat A⟩⟩

end Sys2Proof.Machine
end

section
/-! SUPPORT. When the factory fails: exactly where its table has no row. Then the factory's statement (R150). -/

namespace Sys2Proof.Machine

variable {p : Params} {ri ci : List Byte} {rom : RomImage}

/-- The factory's table ends at mapper number 4 (R150). -/
theorem variantOf_eq_none {m : BitVec 12} : variantOf m = none ↔ 5 ≤ m.toNat := by
  unfold variantOf
  generalize m.toNat = n
  match n with
  | 0 | 1 | 2 | 3 | 4 => simp
  | n + 5 => simp

/-- The factory's one error is a mapper number without a variant, and it carries that number. -/
theorem create_error {e : MapperError} : create p ri ci rom = .error e ↔
    variantOf rom.mapper = none ∧ e = .unsupportedMapper rom.mapper := by
  unfold create
  split
  case h_1 hv => simp [hv, eq_comm]
  case h_2 v hv => split <;> simp [hv]

/-- A mapper number with a variant is that variant's number and no other's. -/
theorem mapper_number_iff_of_variantOf {m : BitVec 12} {v : Variant} (h : variantOf m = some v) :
    (m.toNat = 0 ↔ v = .nrom) ∧ (m.toNat = 1 ↔ v = .mmc1) ∧ (m.toNat = 2 ↔ v = .uxrom) ∧
    (m.toNat = 3 ↔ v = .cnrom) ∧ (m.toNat = 4 ↔ v = .mmc3) := by
  obtain ⟨hm, rfl⟩ | ⟨hm, rfl⟩ | ⟨hm, rfl⟩ | ⟨hm, rfl⟩ | ⟨hm, rfl⟩ := variantOf_eq_some.1 h <;> simp [hm]

/-- Settles O55: the factory fails exactly past the end of its table, and a block it builds is of the table's
variant for the image's mapper number. -/
theorem factoryTable : Obligations.FactoryTable := by
  intro p ri ci rom
  refine ⟨fun hge => create_error.2 ⟨variantOf_eq_none.2 hge, rfl⟩, fun hlt e he => ?_, fun s hs => ?_⟩
  · have hge := variantOf_eq_none.1 (create_error.1 he).1
    omega
  · obtain ⟨v, hv, -, rfl⟩ := create_block.1 hs
    rw [construct_variant]
    exact mapper_number_iff_of_variantOf hv

end Sys2Proof.Machine
end

section
/-! SUPPORT. The assembler's words for a PRG-ROM write, an access to the CHR window and the two signals, decoded for
every variant (R93, R96, R102). -/

namespace Sys2Proof.Machine

variable {v : Variant} {a : Addr}

theorem decode_asmWr_rom (h : 0x8000 ≤ a.toNat) (d : Byte) : decode v (asmWr a d) = decodeRomWrite v a d := by
  rw [asmWr, decode_cpuWrite (opField_tword 1 a d), addrField_tword, dataField_tword, decodeCpuWrite_rom h]

theorem decode_asmPrd_chr (h : a.toNat < 0x2000) : decode v (asmPrd a) = decodeChrRead v a := by
  rw [asmPrd, decode_ppuRead (opField_tword 2 a 0), addrField_tword, decodePpuRead_chr h]

theorem decode_asmPwr_chr (h : a.toNat < 0x2000) (d : Byte) : decode v (asmPwr a d) = decodeChrWrite v a d := by
  rw [asmPwr, decode_ppuWrite (opField_tword 3 a d), addrField_tword, dataField_tword, decodePpuWrite_chr h]

@[simp] theorem decode_asmA12 : decode v asmA12 = decodeA12 v := decode_a12 (opField_tword 4 0 0)

@[simp] theorem decode_asmAck : decode v asmAck = decodeAck v := decode_ack (opField_tword 5 0 0)

end Sys2Proof.Machine
end

section
/-! SUPPORT. NROM's operations by the shared operation each is. Then its statement about PRG-ROM writes and the CHR
window (R164-R166). -/

namespace Sys2Proof.Machine

variable {s : State}

/-- The configuration check fixes NROM's CHR at one 8KB window, so every window offset lies in the array (R152). -/
theorem fixedChrOffset_lt_chrLen_of_nrom (hi : s.Inv) (hr : s.regs = .nrom) (a : Addr) :
    fixedChrOffset a < s.cfg.chrLen := by
  have hc := hi.config
  rw [State.variant_of_regs hr] at hc
  rw [(configOk_nrom hc).2]
  exact fixedChrOffset_lt a

theorem exec_nromPrgRomWrite (hr : s.regs = .nrom) (a : Addr) (d : Byte) :
    exec (.nromPrgRomWrite a d) s = .next (s.setReply .nothing) :=
  State.withNrom_of (f := fun _ => s.done) hr

theorem exec_nromChrRead (hr : s.regs = .nrom) (a : Addr) :
    exec (.nromChrRead a) s = s.readChr (fixedChrOffset a) :=
  State.withNrom_of (f := fun _ => s.readChr (fixedChrOffset a)) hr

theorem exec_nromChrWrite (hr : s.regs = .nrom) (a : Addr) (d : Byte) :
    exec (.nromChrWrite a d) s = s.writeChr (fixedChrOffset a) d :=
  State.withNrom_of (f := fun _ => s.writeChr (fixedChrOffset a) d) hr

/-- Settles O30: NROM's window offset always lies in CHR, so the shared CHR read and write never stop; the PRG-ROM
write is complete at once. -/
theorem nromRomWritesAndChrWindow : Obligations.NromRomWritesAndChrWindow := by
  intro s a d hi hr
  have hv : s.variant = .nrom := State.variant_of_regs hr
  have ho := fixedChrOffset_lt_chrLen_of_nrom hi hr a
  rw [hv, exec_nromChrRead hr, exec_nromChrWrite hr]
  exact ⟨fun ha => decode_asmWr_rom ha d, fun ha => ⟨decode_asmPrd_chr ha, decode_asmPwr_chr ha d⟩,
    exec_nromPrgRomWrite hr a d, State.readChr_of_lt ho, State.writeChr_stores hi ho d⟩

end Sys2Proof.Machine
end

section
/-! SUPPORT. The two signals, in whatever variant their words are decoded for. Then the statement about the variants
that ignore them (R168, R169, R186, R187, R206, R207, R216, R217). -/

namespace Sys2Proof.Machine

variable {v : Variant} {s : State}

/-- In a block without a scanline counter both signals are complete at once. -/
theorem exec_signals_of_ne_mmc3 (hne : s.variant ≠ .mmc3) :
    exec (decodeA12 s.variant) s = .next (s.setReply .nothing) ∧
    exec (decodeAck s.variant) s = .next (s.setReply .nothing) := by
  obtain ⟨hv, hr⟩ | ⟨hv, r, hr⟩ | ⟨hv, r, hr⟩ | ⟨hv, r, hr⟩ | ⟨hv, -⟩ := s.regs_of_variant
  · have h := State.withNrom_of (f := fun _ => s.done) hr
    rw [hv]; exact ⟨h, h⟩
  · rw [hv]; exact ⟨State.withMmc1_of hr, State.withMmc1_of hr⟩
  · rw [hv]; exact ⟨State.withUxrom_of hr, State.withUxrom_of hr⟩
  · rw [hv]; exact ⟨State.withCnrom_of hr, State.withCnrom_of hr⟩
  · exact absurd hv hne

/-- The signals of a block of variant `v`, which is not MMC3: the words that spell them, and that they do nothing. -/
theorem signals_of_variant (hv : s.variant = v) (hne : v ≠ .mmc3) :
    decode s.variant asmA12 = decodeA12 v ∧ decode s.variant asmAck = decodeAck v ∧
    exec (decodeA12 v) s = .next (s.setReply .nothing) ∧ exec (decodeAck v) s = .next (s.setReply .nothing) := by
  subst hv
  exact ⟨decode_asmA12, decode_asmAck, exec_signals_of_ne_mmc3 hne⟩

/-- Settles O31: the one argument about the signals, at each of the four variants. -/
theorem signalsAreNoOpsOutsideMmc3 : Obligations.SignalsAreNoOpsOutsideMmc3 := fun _ =>
  ⟨fun hv => signals_of_variant hv (by decide), fun hv => signals_of_variant hv (by decide),
    fun hv => signals_of_variant hv (by decide), fun hv => signals_of_variant hv (by decide),
    State.irqPending_other⟩

end Sys2Proof.Machine
end

section
/-! SUPPORT. CNROM's window operations by the shared operation each is, at offsets that lie in the arrays. Then its
statement about the PRG-ROM and CHR windows (R210, R212, R213). -/

namespace Sys2Proof.Machine

variable {s : State} {r : Cnrom}

theorem decode_asmRd_rom {v : Variant} {a : Addr} (h : 0x8000 ≤ a.toNat) :
    decode v (asmRd a) = decodeRomRead v a := by
  rw [asmRd, decode_cpuRead (opField_tword 0 a 0), addrField_tword, decodeCpuRead_rom h]

/-- The configuration check admits no empty PRG-ROM (R152), so the window's remainder lies in the array. -/
theorem fixedPrgOffset_lt_prgLen_of_cnrom (hi : s.Inv) (hr : s.regs = .cnrom r) (a : Addr) :
    s.cfg.fixedPrgOffset a < s.cfg.prgLen := by
  have hc := hi.config
  rw [State.variant_of_regs hr] at hc
  have hlen := (configOk_cnrom hc).1
  exact Cfg.fixedPrgOffset_lt a (by omega)

/-- The bank register holds a bank that exists (R34), so its 8KB lie in CHR. -/
theorem cnrom_chrOffset_lt_chrLen (hi : s.Inv) (hr : s.regs = .cnrom r) (a : Addr) :
    r.chrOffset a < s.cfg.chrLen := by
  have hregs := hi.regs
  rw [hr, regsInv_cnrom] at hregs
  exact Cnrom.chrOffset_lt a hregs

theorem exec_cnromPrgRomRead (hr : s.regs = .cnrom r) (a : Addr) :
    exec (.cnromPrgRomRead a) s = s.readPrgRom (s.cfg.fixedPrgOffset a) :=
  State.withCnrom_of (f := fun _ => s.readPrgRom (s.cfg.fixedPrgOffset a)) hr

theorem exec_cnromChrRead (hr : s.regs = .cnrom r) (a : Addr) :
    exec (.cnromChrRead a) s = s.readChr (r.chrOffset a) :=
  State.withCnrom_of (f := fun q => s.readChr (q.chrOffset a)) hr

theorem exec_cnromChrWrite (hr : s.regs = .cnrom r) (a : Addr) (d : Byte) :
    exec (.cnromChrWrite a d) s = s.writeChr (r.chrOffset a) d :=
  State.withCnrom_of (f := fun q => s.writeChr (q.chrOffset a) d) hr

/-- Settles O42: both window offsets lie in their arrays, the fixed one by the configuration check and the switched
one by the register invariant, so the shared reads and the shared CHR write never stop. -/
theorem cnromPrgAndChrWindows : Obligations.CnromPrgAndChrWindows := by
  intro s r a d hi hr
  have hv : s.variant = .cnrom := State.variant_of_regs hr
  have hp := fixedPrgOffset_lt_prgLen_of_cnrom hi hr a
  have ho := cnrom_chrOffset_lt_chrLen hi hr a
  rw [hv, exec_cnromPrgRomRead hr, exec_cnromChrRead hr, exec_cnromChrWrite hr]
  exact ⟨decode_asmRd_rom, fun ha => ⟨decode_asmPrd_chr ha, decode_asmPwr_chr ha d⟩,
    State.readPrgRom_of_lt hp, State.readChr_of_lt ho, State.writeChr_stores hi ho d⟩

end Sys2Proof.Machine
end

section
/-! SUPPORT. MMC3's register writes to the IRQ latch, reload and disable registers: the words that spell them, by the
region and the parity of the address, and what each does to the registers. Then their statement (R226-R228). -/

namespace Sys2Proof.Machine

variable {s : State} {r : Mmc3} {a : Addr}

theorem decodeMmc3Write_irqLatch (hr : a.toNat / 8192 = 6) (hp : a.toNat % 2 = 0) (d : Byte) :
    decodeMmc3Write a d = .mmc3IrqLatch a d := by
  simp [decodeMmc3Write, region_toNat, BitVec.getElem_eq_testBit_toNat, hr, hp]

theorem decodeMmc3Write_irqReload (hr : a.toNat / 8192 = 6) (hp : a.toNat % 2 = 1) (d : Byte) :
    decodeMmc3Write a d = .mmc3IrqReload a d := by
  simp [decodeMmc3Write, region_toNat, BitVec.getElem_eq_testBit_toNat, hr, hp]

theorem decodeMmc3Write_irqDisable (hr : a.toNat / 8192 = 7) (hp : a.toNat % 2 = 0) (d : Byte) :
    decodeMmc3Write a d = .mmc3IrqDisable a d := by
  simp [decodeMmc3Write, region_toNat, BitVec.getElem_eq_testBit_toNat, hr, hp]

/-- The word of a write to $8000-$FFFF, in a block of variant MMC3, by the registers' own decoder. -/
theorem decode_asmWr_mmc3 (h : 4 ≤ a.toNat / 8192) (d : Byte) : decode .mmc3 (asmWr a d) = decodeMmc3Write a d :=
  decode_asmWr_rom (by omega) d

theorem exec_mmc3IrqLatch (hr : s.regs = .mmc3 r) (a : Addr) (d : Byte) :
    exec (.mmc3IrqLatch a d) s = .next ((s.setRegs (.mmc3 (r.setLatch d))).setReply .nothing) :=
  State.mmc3Update_of (f := fun q => q.setLatch d) hr

theorem exec_mmc3IrqReload (hr : s.regs = .mmc3 r) (a : Addr) (d : Byte) :
    exec (.mmc3IrqReload a d) s = .next ((s.setRegs (.mmc3 r.requestReload)).setReply .nothing) :=
  State.mmc3Update_of (f := fun q => q.requestReload) hr

theorem exec_mmc3IrqDisable (hr : s.regs = .mmc3 r) (a : Addr) (d : Byte) :
    exec (.mmc3IrqDisable a d) s = .next ((s.setRegs (.mmc3 r.disableIrq)).setReply .nothing) :=
  State.mmc3Update_of (f := fun q => q.disableIrq) hr

/-- Settles O45: region and parity of the address choose the register in MMC3's decoder, and each of the three writes
is the shared register update with its own function of the registers. -/
theorem mmc3LatchReloadDisable : Obligations.Mmc3LatchReloadDisable := by
  intro s r a d hr
  rw [State.variant_of_regs hr]
  refine ⟨fun ha hp => ?_, fun ha hp => ?_, fun ha hp => ?_,
    exec_mmc3IrqLatch hr a d, exec_mmc3IrqReload hr a d, exec_mmc3IrqDisable hr a d⟩
  · exact (decode_asmWr_mmc3 (by omega) d).trans (decodeMmc3Write_irqLatch ha hp d)
  · exact (decode_asmWr_mmc3 (by omega) d).trans (decodeMmc3Write_irqReload ha hp d)
  · exact (decode_asmWr_mmc3 (by omega) d).trans (decodeMmc3Write_irqDisable ha hp d)

end Sys2Proof.Machine
end

section
/-! SUPPORT. The invariant along effects and steps, and what no effect writes. Then the statements about the invariant
and the constants of the block (R20, R24, R25, R48, R150-R152). -/

namespace Sys2Proof.Machine

variable {i : Instr} {s t : State}

/-- The invariant does not speak of the queue, the answer or the started mark. -/
theorem State.inv_take (ws : List TWord) : (s.take ws).Inv ↔ s.Inv := Iff.rfl

/-- Every effect keeps the invariant: new registers are ones the block can hold, and the one byte that is stored keeps
its array canonical and inside its bounds. -/
theorem Effect.keeps_inv (he : Effect i s t) (hi : s.Inv) : t.Inv := by
  obtain ⟨hconfig, ⟨hpw, hpb, hcw, hcb, hrw, hrb⟩, hregs⟩ := State.inv_iff.1 hi
  cases he with
  | answered r => exact hi
  | registers q _ hv hq =>
    refine State.inv_iff.2 ⟨?_, ?_, hq hregs⟩
    · simpa [hv] using hconfig
    · simpa [hv] using ⟨hpw, hpb, hcw, hcb, hrw, hrb⟩
  | prgRam a v _ hp =>
    rw [if_pos hp] at hrb
    refine State.inv_iff.2 ⟨hconfig, ⟨hpw, hpb, hcw, hcb, Memory.wf_write _ v hrw, ?_⟩, hregs⟩
    simpa [hp] using Memory.below_write _ v hrb (ramOffset_lt a)
  | chr a v o _ _ ho =>
    exact State.inv_iff.2
      ⟨hconfig, ⟨hpw, hpb, Memory.wf_write o v hcw, Memory.below_write o v hcb ho, hrw, hrb⟩, hregs⟩

/-- Settles O12: a step is idle or has one of the effects, and each effect keeps the invariant. -/
theorem stepKeepsInvariant : Obligations.StepKeepsInvariant := by
  intro s t hi h
  obtain ⟨-, rfl⟩ | ⟨w, ws, -, h⟩ := step_next h
  · exact hi
  · exact (exec_effect h).keeps_inv ((State.inv_take ws).2 hi)

/-- Settles O11: the arrays are empty, so the invariant is a closed check of the configuration and the registers. -/
theorem resetMeetsInvariant : Obligations.ResetMeetsInvariant := by
  unfold Obligations.ResetMeetsInvariant
  decide

/-- The configuration check leaves every variant at least one 8KB bank of PRG-ROM (R152). -/
theorem configOk_prgLen {v : Variant} {c : Cfg} (h : configOk v c = true) : 8192 ≤ c.prgLen := by
  cases v with
  | nrom => have := (configOk_nrom h).1; omega
  | mmc1 => have := (configOk_mmc1 h).1; omega
  | uxrom => have := (configOk_uxrom h).1; omega
  | cnrom => have := (configOk_cnrom h).1; omega
  | mmc3 => have := (configOk_mmc3 h).1; omega

/-- The registers after construction are ones the block can hold: bank 0 exists by the configuration check. -/
theorem regsInv_regsReset {v : Variant} {c : Cfg} (m : Mirroring) (h : configOk v c = true) :
    regsInv c (regsReset m v) = true := by
  cases v with
  | nrom => rfl
  | mmc1 => rfl
  | uxrom => exact regsInv_uxrom.2 (configOk_uxrom h).1.1
  | cnrom => exact regsInv_cnrom.2 (configOk_cnrom h).2.1
  | mmc3 => rfl

/-- The CHR array of a new block is canonical and ends where the configuration says. -/
theorem construct_chr_canonical (v : Variant) (p : Params) (ri ci : List Byte) (rom : RomImage) :
    (construct v rom.cfg p ri ci rom.prg rom.chr).chr.wf = true ∧
    (construct v rom.cfg p ri ci rom.prg rom.chr).chr.below rom.cfg.chrLen = true := by
  by_cases hc : rom.chr = []
  · rw [construct_chr_ram _ _ _ _ _ _ _ (by simp [hc]), RomImage.cfg_chrLen, if_pos hc]
    exact ⟨Memory.wf_ofBytes _, Memory.below_ofBytes (List.length_take_le _ _)⟩
  · rw [construct_chr_rom _ _ _ _ _ _ _ (by simpa using hc), RomImage.cfg_chrLen, if_neg hc]
    exact ⟨Memory.wf_ofBytes _, Memory.below_ofBytes le_rfl⟩

/-- The PRG-RAM of a new block is canonical and ends at 8KB, or at nothing where the block has none. -/
theorem construct_prgRam_canonical (v : Variant) (c : Cfg) (p : Params) (ri ci prg chr : List Byte) :
    (construct v c p ri ci prg chr).prgRam.wf = true ∧
    (construct v c p ri ci prg chr).prgRam.below (if hasPrgRam v p then Config.prgRamSize else 0) = true := by
  cases hp : hasPrgRam v p with
  | false => rw [construct_prgRam_absent _ _ _ _ _ _ _ hp]; simp
  | true =>
    rw [construct_prgRam _ _ _ _ _ _ _ hp, if_pos rfl]
    exact ⟨Memory.wf_ofBytes _, Memory.below_ofBytes (List.length_take_le _ _)⟩

/-- Settles O13: a block is built from a checked configuration, arrays made from byte lists that fit, and registers
that hold bank 0. -/
theorem createdBlockMeetsInvariant : Obligations.CreatedBlockMeetsInvariant := by
  intro p ri ci rom s h
  obtain ⟨v, hv, hc, rfl⟩ := create_block.1 h
  obtain ⟨hcw, hcb⟩ := construct_chr_canonical v p ri ci rom
  obtain ⟨hrw, hrb⟩ := construct_prgRam_canonical v rom.cfg p ri ci rom.prg rom.chr
  refine State.inv_iff.2 ⟨⟨?_, ?_, ?_⟩, ⟨Memory.wf_ofBytes _, Memory.below_ofBytes le_rfl, hcw, hcb, hrw, ?_⟩,
    regsInv_regsReset _ hc⟩
  · simpa using hv
  · simpa using hc
  · intro hram
    exact (RomImage.cfg_chrLen rom).trans (if_pos (by simpa using hram))
  · simpa using hrb

theorem Effect.params_eq (h : Effect i s t) : t.params = s.params := by
  cases h <;> rfl

theorem Effect.prgRom_eq (h : Effect i s t) : t.prgRom = s.prgRom := by
  cases h <;> rfl

theorem Effect.chr_eq_of_rom (h : Effect i s t) (hrom : s.cfg.chrIsRam = false) : t.chr = s.chr := by
  cases h with
  | chr _ _ _ _ hram _ => simp [hram] at hrom
  | _ => rfl

/-- Settles O14: no effect writes the configuration, the parameters or PRG-ROM, and the one effect that writes CHR
needs CHR-RAM. -/
theorem noTransactionWritesConfiguration : Obligations.NoTransactionWritesConfiguration := by
  intro s t h
  refine ⟨step_cfg h, step_keeps State.take_params Effect.params_eq h,
    step_keeps State.take_prgRom Effect.prgRom_eq h, fun hrom => ?_⟩
  obtain ⟨-, rfl⟩ | ⟨w, ws, -, h⟩ := step_next h
  · rfl
  · exact (exec_effect h).chr_eq_of_rom hrom

/-- Settles O17: the one effect that writes PRG-RAM stores the datum at the offset of the write's own address. -/
theorem prgRamChangesOnlyAtTheStoredByte : Obligations.PrgRamChangesOnlyAtTheStoredByte := by
  intro i s t o hi h hne
  cases exec_effect h with
  | prgRam a v hw _ =>
    have hread : Memory.read (Memory.write s.prgRam (ramOffset a) v) o =
        if o = ramOffset a then v else Memory.read s.prgRam o := Memory.read_write hi.prgRam_wf _ v o
    by_cases ho : o = ramOffset a
    · exact ⟨a, v, hw, ho, hread.trans (if_pos ho)⟩
    · exact absurd (hread.trans (if_neg ho)) hne
  | _ => exact absurd rfl hne

/-- Settles O18: the one effect that writes CHR needs CHR-RAM and stores the datum at the window's own offset. -/
theorem chrChangesOnlyAtTheStoredByte : Obligations.ChrChangesOnlyAtTheStoredByte := by
  intro i s t o hi h hne
  cases exec_effect h with
  | chr a v p hw hram _ =>
    have hread : Memory.read (Memory.write s.chr p v) o = if o = p then v else Memory.read s.chr o :=
      Memory.read_write hi.chr_wf _ v o
    by_cases ho : o = p
    · subst ho
      exact ⟨hram, a, v, hread.trans (if_pos rfl), hw⟩
    · exact absurd (hread.trans (if_neg ho)) hne
  | _ => exact absurd rfl hne

end Sys2Proof.Machine
end

section
/-! SUPPORT. The words that the lemmas about the assembler leave out, by operation and address range, and MMC1's and
MMC3's writes by region and selecting bit. Then that decoding undoes encoding (R90, R91, R95). -/

namespace Sys2Proof

variable {v : Variant} {a : Addr} {d : Byte}

/-! ## The word of each kind of access -/

theorem decode_word_cpuRead : decode v (tword 0 a d) = decodeCpuRead v a := by
  rw [decode_cpuRead (opField_tword 0 a d), addrField_tword]

theorem decode_word_cpuWrite : decode v (tword 1 a d) = decodeCpuWrite v a d := by
  rw [decode_cpuWrite (opField_tword 1 a d), addrField_tword, dataField_tword]

theorem decode_word_ppuRead : decode v (tword 2 a d) = decodePpuRead v a := by
  rw [decode_ppuRead (opField_tword 2 a d), addrField_tword]

theorem decode_word_ppuWrite : decode v (tword 3 a d) = decodePpuWrite v a d := by
  rw [decode_ppuWrite (opField_tword 3 a d), addrField_tword, dataField_tword]

theorem decode_word_ramRead (h : inWindow 0x6000 0x7FFF a = true) :
    decode v (tword 0 a d) = decodeRamRead v a :=
  decode_word_cpuRead.trans (decodeCpuRead_ram (inWindow_iff.1 h).1 (Nat.lt_succ_of_le (inWindow_iff.1 h).2))

theorem decode_word_ramWrite (h : inWindow 0x6000 0x7FFF a = true) :
    decode v (tword 1 a d) = decodeRamWrite v a d :=
  decode_word_cpuWrite.trans (decodeCpuWrite_ram (inWindow_iff.1 h).1 (Nat.lt_succ_of_le (inWindow_iff.1 h).2))

/-- NT_MAP keeps the low 12 bits, so widening them to an address and decoding gives them back. -/
theorem decode_word_ntMap (n : BitVec 12) : decode v (tword 6 (n.setWidth 16) d) = .allNtMap n := by
  rw [decode_ntMap (opField_tword 6 _ d), addrField_tword]
  congr 1
  apply BitVec.eq_of_toNat_eq
  have := n.isLt
  simp only [BitVec.extractLsb'_toNat, BitVec.toNat_setWidth, Nat.shiftRight_zero]
  omega

/-! ## MMC1's and MMC3's writes by region and selecting bit -/

/-- The region of an address inside one 8KB window. -/
theorem region_of_inWindow {k : Nat} (h : inWindow (k * 8192) (k * 8192 + 8191) a = true) :
    (region a).toNat = k := by
  have := inWindow_iff.1 h
  rw [region_toNat]
  omega

theorem decodeMmc1Write_reset (hd : d.getLsbD 7 = true) : decodeMmc1Write a d = .mmc1Reset a d := if_pos hd

theorem decodeMmc1Write_control (hr : (region a).toNat = 4) (hd : d.getLsbD 7 = false) :
    decodeMmc1Write a d = .mmc1SerialControl a d := by
  rw [decodeMmc1Write, hd, hr]; rfl

theorem decodeMmc1Write_chr0 (hr : (region a).toNat = 5) (hd : d.getLsbD 7 = false) :
    decodeMmc1Write a d = .mmc1SerialChr0 a d := by
  rw [decodeMmc1Write, hd, hr]; rfl

theorem decodeMmc1Write_chr1 (hr : (region a).toNat = 6) (hd : d.getLsbD 7 = false) :
    decodeMmc1Write a d = .mmc1SerialChr1 a d := by
  rw [decodeMmc1Write, hd, hr]; rfl

theorem decodeMmc1Write_prg (hr : (region a).toNat = 7) (hd : d.getLsbD 7 = false) :
    decodeMmc1Write a d = .mmc1SerialPrg a d := by
  rw [decodeMmc1Write, hd, hr]; rfl

/-- The register pair of a region: `A[0]` chooses between its two registers (R96, R220). -/
theorem decodeMmc3Write_of_region_4 (hr : (region a).toNat = 4) :
    decodeMmc3Write a d = if a.getLsbD 0 then .mmc3BankData a d else .mmc3BankSelect a d := by
  rw [decodeMmc3Write, hr]; cases a.getLsbD 0 <;> rfl

theorem decodeMmc3Write_of_region_5 (hr : (region a).toNat = 5) :
    decodeMmc3Write a d = if a.getLsbD 0 then .mmc3PrgRamProtect a d else .mmc3Mirroring a d := by
  rw [decodeMmc3Write, hr]; cases a.getLsbD 0 <;> rfl

theorem decodeMmc3Write_of_region_6 (hr : (region a).toNat = 6) :
    decodeMmc3Write a d = if a.getLsbD 0 then .mmc3IrqReload a d else .mmc3IrqLatch a d := by
  rw [decodeMmc3Write, hr]; cases a.getLsbD 0 <;> rfl

theorem decodeMmc3Write_of_region_7 (hr : (region a).toNat = 7) :
    decodeMmc3Write a d = if a.getLsbD 0 then .mmc3IrqEnable a d else .mmc3IrqDisable a d := by
  rw [decodeMmc3Write, hr]; cases a.getLsbD 0 <;> rfl

/-- The word of a register write whose `wellFormed` asks for a window in $8000-$FFFF and a selecting bit. -/
theorem decode_word_registerWrite {lo hi : Nat} {b : Bool} (h : (inWindow lo hi a && b) = true) (hlo : 0x8000 ≤ lo) :
    decode v (tword 1 a d) = decodeRomWrite v a d ∧ inWindow lo hi a = true ∧ b = true := by
  rw [Bool.and_eq_true] at h
  exact ⟨Machine.decode_asmWr_rom (hlo.trans (inWindow_iff.1 h.1).1) d, h⟩

/-- An operation of one variant is an operation of no other. -/
theorem Instr.eq_of_inVariant {i : Instr} {u : Variant} (hu : i.variant? = some u) (h : i.inVariant v = true) :
    v = u := by
  simp only [Instr.inVariant, hu, beq_iff_eq] at h
  exact h.symm

/-- Settles O1: operation by operation, the word's op and window lead the decoder to the operation's own arm. -/
theorem decodeOfEncodeIsIdentity : Obligations.DecodeOfEncodeIsIdentity := by
  intro v i hw hv
  cases i
  case allCpuUnmappedRead a =>
    exact decode_word_cpuRead.trans (decodeCpuRead_unmapped (Nat.lt_succ_of_le (inWindow_iff.1 hw).2))
  case allCpuUnmappedWrite a d =>
    exact decode_word_cpuWrite.trans (decodeCpuWrite_unmapped (Nat.lt_succ_of_le (inWindow_iff.1 hw).2))
  case allPpuUnmappedRead a => exact decode_word_ppuRead.trans (decodePpuRead_unmapped (inWindow_iff.1 hw).1)
  case allPpuUnmappedWrite a d => exact decode_word_ppuWrite.trans (decodePpuWrite_unmapped (inWindow_iff.1 hw).1)
  case allNtMap n => exact decode_word_ntMap n
  case allReserved => exact decode_reserved (opField_tword 7 0 0)
  all_goals cases Instr.eq_of_inVariant rfl hv
  case nromPrgRamRead | mmc1PrgRamRead | uxromWramRead | cnromWramRead | mmc3PrgRamRead =>
    exact decode_word_ramRead hw
  case nromPrgRamWrite | mmc1PrgRamWrite | uxromWramWrite | cnromWramWrite | mmc3PrgRamWrite =>
    exact decode_word_ramWrite hw
  case nromPrgRomRead | mmc1PrgRomRead | uxromPrgRomRead | cnromPrgRomRead | mmc3PrgRomRead =>
    exact Machine.decode_asmRd_rom (inWindow_iff.1 hw).1
  case nromPrgRomWrite | uxromBankSelect | cnromChrBankSelect =>
    exact Machine.decode_asmWr_rom (inWindow_iff.1 hw).1 _
  case nromChrRead | mmc1ChrRead | uxromChrRead | cnromChrRead | mmc3ChrRead =>
    exact Machine.decode_asmPrd_chr (Nat.lt_succ_of_le (inWindow_iff.1 hw).2)
  case nromChrWrite | mmc1ChrWrite | uxromChrWrite | cnromChrWrite | mmc3ChrWrite =>
    exact Machine.decode_asmPwr_chr (Nat.lt_succ_of_le (inWindow_iff.1 hw).2) _
  case nromA12Rise | mmc1A12Rise | uxromA12Rise | cnromA12Rise | mmc3A12Rise => exact Machine.decode_asmA12
  case nromIrqAck | mmc1IrqAck | uxromIrqAck | cnromIrqAck | mmc3IrqAck => exact Machine.decode_asmAck
  case mmc1Reset a d =>
    obtain ⟨hdec, -, hd⟩ := decode_word_registerWrite hw (by decide)
    exact hdec.trans (decodeMmc1Write_reset hd)
  case mmc1SerialControl a d =>
    obtain ⟨hdec, ha, hd⟩ := decode_word_registerWrite hw (by decide)
    exact hdec.trans (decodeMmc1Write_control (region_of_inWindow ha) (by simpa using hd))
  case mmc1SerialChr0 a d =>
    obtain ⟨hdec, ha, hd⟩ := decode_word_registerWrite hw (by decide)
    exact hdec.trans (decodeMmc1Write_chr0 (region_of_inWindow ha) (by simpa using hd))
  case mmc1SerialChr1 a d =>
    obtain ⟨hdec, ha, hd⟩ := decode_word_registerWrite hw (by decide)
    exact hdec.trans (decodeMmc1Write_chr1 (region_of_inWindow ha) (by simpa using hd))
  case mmc1SerialPrg a d =>
    obtain ⟨hdec, ha, hd⟩ := decode_word_registerWrite hw (by decide)
    exact hdec.trans (decodeMmc1Write_prg (region_of_inWindow ha) (by simpa using hd))
  case mmc3BankSelect | mmc3BankData =>
    obtain ⟨hdec, ha, hb⟩ := decode_word_registerWrite hw (by decide)
    exact hdec.trans ((decodeMmc3Write_of_region_4 (region_of_inWindow ha)).trans (by simp_all))
  case mmc3Mirroring | mmc3PrgRamProtect =>
    obtain ⟨hdec, ha, hb⟩ := decode_word_registerWrite hw (by decide)
    exact hdec.trans ((decodeMmc3Write_of_region_5 (region_of_inWindow ha)).trans (by simp_all))
  case mmc3IrqLatch | mmc3IrqReload =>
    obtain ⟨hdec, ha, hb⟩ := decode_word_registerWrite hw (by decide)
    exact hdec.trans ((decodeMmc3Write_of_region_6 (region_of_inWindow ha)).trans (by simp_all))
  case mmc3IrqDisable | mmc3IrqEnable =>
    obtain ⟨hdec, ha, hb⟩ := decode_word_registerWrite hw (by decide)
    exact hdec.trans ((decodeMmc3Write_of_region_7 (region_of_inWindow ha)).trans (by simp_all))

end Sys2Proof
end

section
/-! SUPPORT. What the decoder gives, op by op: the word its transaction encodes to, and that the transaction is
well-formed and of the decoder's variant. Then the statements about words (R90-R92, R95, R101). -/

namespace Sys2Proof

variable {v : Variant} {a : Addr} {d : Byte} {w : TWord}

/-! ## The word of a decoded transaction -/

theorem encode_decodeCpuRead (v : Variant) (a : Addr) : encode (decodeCpuRead v a) = tword 0 a 0 := by
  unfold decodeCpuRead
  split <;> cases v <;> rfl

theorem encode_decodeMmc1Write (a : Addr) (d : Byte) : encode (decodeMmc1Write a d) = tword 1 a d := by
  unfold decodeMmc1Write
  split
  · rfl
  · split <;> rfl

theorem encode_decodeMmc3Write (a : Addr) (d : Byte) : encode (decodeMmc3Write a d) = tword 1 a d := by
  unfold decodeMmc3Write
  split <;> rfl

theorem encode_decodeRomWrite (v : Variant) (a : Addr) (d : Byte) : encode (decodeRomWrite v a d) = tword 1 a d := by
  cases v with
  | mmc1 => exact encode_decodeMmc1Write a d
  | mmc3 => exact encode_decodeMmc3Write a d
  | _ => rfl

theorem encode_decodeCpuWrite (v : Variant) (a : Addr) (d : Byte) : encode (decodeCpuWrite v a d) = tword 1 a d := by
  unfold decodeCpuWrite
  split
  case h_5 => exact encode_decodeRomWrite v a d
  all_goals cases v <;> rfl

theorem encode_decodePpuRead (v : Variant) (a : Addr) : encode (decodePpuRead v a) = tword 2 a 0 := by
  unfold decodePpuRead
  split <;> cases v <;> rfl

theorem encode_decodePpuWrite (v : Variant) (a : Addr) (d : Byte) : encode (decodePpuWrite v a d) = tword 3 a d := by
  unfold decodePpuWrite
  split <;> cases v <;> rfl

theorem encode_decodeA12 (v : Variant) : encode (decodeA12 v) = tword 4 0 0 := by cases v <;> rfl

theorem encode_decodeAck (v : Variant) : encode (decodeAck v) = tword 5 0 0 := by cases v <;> rfl

/-- The word of a decoded transaction: `op` is kept, and so is every field its format uses; the rest is zero (R92,
R101). -/
theorem encode_decode (v : Variant) (w : TWord) :
    encode (decode v w) = tword (opField w)
      (if (opField w).toNat ≤ 3 then addrField w
       else if opField w = 6 then ((addrField w).extractLsb' 0 12).setWidth 16 else 0)
      (if opField w = 1 ∨ opField w = 3 then dataField w else 0) := by
  obtain h | h | h | h | h | h | h | h := opField_cases w
  · rw [decode_cpuRead h, encode_decodeCpuRead, h]; rfl
  · rw [decode_cpuWrite h, encode_decodeCpuWrite, h]; rfl
  · rw [decode_ppuRead h, encode_decodePpuRead, h]; rfl
  · rw [decode_ppuWrite h, encode_decodePpuWrite, h]; rfl
  · rw [decode_a12 h, encode_decodeA12, h]; rfl
  · rw [decode_ack h, encode_decodeAck, h]; rfl
  · rw [decode_ntMap h, h]; rfl
  · rw [decode_reserved h, h]; rfl

/-- Settles O5: the three fields of the word of a decoded transaction. -/
theorem encodeOfDecodeKeepsUsedFields : Obligations.EncodeOfDecodeKeepsUsedFields := by
  intro v w
  rw [encode_decode]
  exact ⟨opField_tword _ _ _, addrField_tword _ _ _, dataField_tword _ _ _⟩

/-- Settles O4: the decoder reads, besides `op`, only the fields that the op's format uses. -/
theorem ignoredFieldsDoNotChangeDecoding : Obligations.IgnoredFieldsDoNotChangeDecoding := by
  intro v w w' hop haddr hdata hnt
  obtain h | h | h | h | h | h | h | h := opField_cases w <;> rw [h] at haddr hdata hnt <;> rw [h] at hop
  · rw [decode_cpuRead h, decode_cpuRead hop.symm, haddr (by decide)]
  · rw [decode_cpuWrite h, decode_cpuWrite hop.symm, haddr (by decide), hdata (by decide)]
  · rw [decode_ppuRead h, decode_ppuRead hop.symm, haddr (by decide)]
  · rw [decode_ppuWrite h, decode_ppuWrite hop.symm, haddr (by decide), hdata (by decide)]
  · rw [decode_a12 h, decode_a12 hop.symm]
  · rw [decode_ack h, decode_ack hop.symm]
  · rw [decode_ntMap h, decode_ntMap hop.symm, hnt rfl]
  · rw [decode_reserved h, decode_reserved hop.symm]

/-! ## A decoded transaction is well-formed and of the decoder's variant -/

/-- The transaction is one the encoding of variant `v` can spell. -/
def Instr.SpelledIn (i : Instr) (v : Variant) : Prop := i.wellFormed = true ∧ i.inVariant v = true

/-- An operation with no more to check than its window. -/
theorem Instr.spelledIn_of_window {i : Instr} {lo hi : Nat} (hw : i.wellFormed = inWindow lo hi a)
    (hv : i.inVariant v = true) (hlo : lo ≤ a.toNat) (hhi : a.toNat ≤ hi) : i.SpelledIn v :=
  ⟨hw.trans (inWindow_iff.2 ⟨hlo, hhi⟩), hv⟩

theorem decodeRamRead_spelledIn (v : Variant) (h : 0x6000 ≤ a.toNat) (h' : a.toNat < 0x8000) :
    (decodeRamRead v a).SpelledIn v :=
  Instr.spelledIn_of_window (by cases v <;> rfl) (by cases v <;> rfl) h (Nat.le_of_lt_succ h')

theorem decodeRamWrite_spelledIn (v : Variant) (d : Byte) (h : 0x6000 ≤ a.toNat) (h' : a.toNat < 0x8000) :
    (decodeRamWrite v a d).SpelledIn v :=
  Instr.spelledIn_of_window (by cases v <;> rfl) (by cases v <;> rfl) h (Nat.le_of_lt_succ h')

theorem decodeRomRead_spelledIn (v : Variant) (h : 0x8000 ≤ a.toNat) : (decodeRomRead v a).SpelledIn v :=
  Instr.spelledIn_of_window (by cases v <;> rfl) (by cases v <;> rfl) h (Nat.le_of_lt_succ a.isLt)

theorem decodeChrRead_spelledIn (v : Variant) (h : a.toNat < 0x2000) : (decodeChrRead v a).SpelledIn v :=
  Instr.spelledIn_of_window (by cases v <;> rfl) (by cases v <;> rfl) (Nat.zero_le _) (Nat.le_of_lt_succ h)

theorem decodeChrWrite_spelledIn (v : Variant) (d : Byte) (h : a.toNat < 0x2000) :
    (decodeChrWrite v a d).SpelledIn v :=
  Instr.spelledIn_of_window (by cases v <;> rfl) (by cases v <;> rfl) (Nat.zero_le _) (Nat.le_of_lt_succ h)

/-- The four regions of the PRG-ROM window, each an 8KB window of its own. -/
theorem rom_region_cases (h : 0x8000 ≤ a.toNat) :
    ((region a).toNat = 4 ∧ inWindow 0x8000 0x9FFF a = true) ∨
    ((region a).toNat = 5 ∧ inWindow 0xA000 0xBFFF a = true) ∨
    ((region a).toNat = 6 ∧ inWindow 0xC000 0xDFFF a = true) ∨
    ((region a).toNat = 7 ∧ inWindow 0xE000 0xFFFF a = true) := by
  have := a.isLt
  simp only [region_toNat, inWindow_iff]
  omega

theorem decodeMmc1Write_spelledIn (d : Byte) (h : 0x8000 ≤ a.toNat) : (decodeMmc1Write a d).SpelledIn .mmc1 := by
  cases hd : d.getLsbD 7 with
  | true =>
    rw [decodeMmc1Write_reset hd]
    have ha : inWindow 0x8000 0xFFFF a = true := inWindow_iff.2 ⟨h, Nat.le_of_lt_succ a.isLt⟩
    exact ⟨by simp only [Instr.wellFormed, ha, hd, Bool.and_self], rfl⟩
  | false =>
    obtain ⟨hr, ha⟩ | ⟨hr, ha⟩ | ⟨hr, ha⟩ | ⟨hr, ha⟩ := rom_region_cases h
    · rw [decodeMmc1Write_control hr hd]
      exact ⟨by simp only [Instr.wellFormed, ha, hd, Bool.not_false, Bool.and_self], rfl⟩
    · rw [decodeMmc1Write_chr0 hr hd]
      exact ⟨by simp only [Instr.wellFormed, ha, hd, Bool.not_false, Bool.and_self], rfl⟩
    · rw [decodeMmc1Write_chr1 hr hd]
      exact ⟨by simp only [Instr.wellFormed, ha, hd, Bool.not_false, Bool.and_self], rfl⟩
    · rw [decodeMmc1Write_prg hr hd]
      exact ⟨by simp only [Instr.wellFormed, ha, hd, Bool.not_false, Bool.and_self], rfl⟩

/-- One of a pair of registers that `A[0]` chooses from: well-formed when the pair's window holds the address. -/
theorem Instr.spelledIn_of_pair {i j : Instr} {lo hi : Nat}
    (hi1 : i.wellFormed = (inWindow lo hi a && a.getLsbD 0)) (hj1 : j.wellFormed = (inWindow lo hi a && !a.getLsbD 0))
    (hiv : i.inVariant v = true) (hjv : j.inVariant v = true) (ha : inWindow lo hi a = true) :
    (if a.getLsbD 0 then i else j).SpelledIn v := by
  cases hb : a.getLsbD 0 with
  | true => exact ⟨hi1.trans (by rw [ha, hb]; rfl), hiv⟩
  | false => exact ⟨hj1.trans (by rw [ha, hb]; rfl), hjv⟩

theorem decodeMmc3Write_spelledIn (d : Byte) (h : 0x8000 ≤ a.toNat) : (decodeMmc3Write a d).SpelledIn .mmc3 := by
  obtain ⟨hr, ha⟩ | ⟨hr, ha⟩ | ⟨hr, ha⟩ | ⟨hr, ha⟩ := rom_region_cases h
  · rw [decodeMmc3Write_of_region_4 hr]; exact Instr.spelledIn_of_pair rfl rfl rfl rfl ha
  · rw [decodeMmc3Write_of_region_5 hr]; exact Instr.spelledIn_of_pair rfl rfl rfl rfl ha
  · rw [decodeMmc3Write_of_region_6 hr]; exact Instr.spelledIn_of_pair rfl rfl rfl rfl ha
  · rw [decodeMmc3Write_of_region_7 hr]; exact Instr.spelledIn_of_pair rfl rfl rfl rfl ha

theorem decodeRomWrite_spelledIn (v : Variant) (d : Byte) (h : 0x8000 ≤ a.toNat) :
    (decodeRomWrite v a d).SpelledIn v := by
  cases v with
  | mmc1 => exact decodeMmc1Write_spelledIn d h
  | mmc3 => exact decodeMmc3Write_spelledIn d h
  | _ => exact Instr.spelledIn_of_window rfl rfl h (Nat.le_of_lt_succ a.isLt)

theorem decodeCpuRead_spelledIn (v : Variant) (a : Addr) : (decodeCpuRead v a).SpelledIn v := by
  rcases Nat.lt_or_ge a.toNat 0x6000 with h | h
  · rw [decodeCpuRead_unmapped h]
    exact Instr.spelledIn_of_window rfl rfl (Nat.zero_le _) (Nat.le_of_lt_succ h)
  · rcases Nat.lt_or_ge a.toNat 0x8000 with h' | h'
    · rw [decodeCpuRead_ram h h']; exact decodeRamRead_spelledIn v h h'
    · rw [decodeCpuRead_rom h']; exact decodeRomRead_spelledIn v h'

theorem decodeCpuWrite_spelledIn (v : Variant) (a : Addr) (d : Byte) : (decodeCpuWrite v a d).SpelledIn v := by
  rcases Nat.lt_or_ge a.toNat 0x6000 with h | h
  · rw [decodeCpuWrite_unmapped h]
    exact Instr.spelledIn_of_window rfl rfl (Nat.zero_le _) (Nat.le_of_lt_succ h)
  · rcases Nat.lt_or_ge a.toNat 0x8000 with h' | h'
    · rw [decodeCpuWrite_ram h h']; exact decodeRamWrite_spelledIn v d h h'
    · rw [decodeCpuWrite_rom h']; exact decodeRomWrite_spelledIn v d h'

theorem decodePpuRead_spelledIn (v : Variant) (a : Addr) : (decodePpuRead v a).SpelledIn v := by
  rcases Nat.lt_or_ge a.toNat 0x2000 with h | h
  · rw [decodePpuRead_chr h]; exact decodeChrRead_spelledIn v h
  · rw [decodePpuRead_unmapped h]
    exact Instr.spelledIn_of_window rfl rfl h (Nat.le_of_lt_succ a.isLt)

theorem decodePpuWrite_spelledIn (v : Variant) (a : Addr) (d : Byte) : (decodePpuWrite v a d).SpelledIn v := by
  rcases Nat.lt_or_ge a.toNat 0x2000 with h | h
  · rw [decodePpuWrite_chr h]; exact decodeChrWrite_spelledIn v d h
  · rw [decodePpuWrite_unmapped h]
    exact Instr.spelledIn_of_window rfl rfl h (Nat.le_of_lt_succ a.isLt)

theorem decode_spelledIn (v : Variant) (w : TWord) : (decode v w).SpelledIn v := by
  obtain h | h | h | h | h | h | h | h := opField_cases w
  · rw [decode_cpuRead h]; exact decodeCpuRead_spelledIn v _
  · rw [decode_cpuWrite h]; exact decodeCpuWrite_spelledIn v _ _
  · rw [decode_ppuRead h]; exact decodePpuRead_spelledIn v _
  · rw [decode_ppuWrite h]; exact decodePpuWrite_spelledIn v _ _
  · rw [decode_a12 h]; cases v <;> exact ⟨rfl, rfl⟩
  · rw [decode_ack h]; cases v <;> exact ⟨rfl, rfl⟩
  · rw [decode_ntMap h]; exact ⟨rfl, rfl⟩
  · rw [decode_reserved h]; exact ⟨rfl, rfl⟩

/-- Settles O3: every op leads, window by window, to an operation of the decoder's variant whose window that is. -/
theorem decodedTransactionIsWellFormed : Obligations.DecodedTransactionIsWellFormed := decode_spelledIn

/-- Settles O6: each word is a closed term, and the decoder computes. -/
theorem wordsWrittenOutDecode : Obligations.WordsWrittenOutDecode := by
  unfold Obligations.WordsWrittenOutDecode
  decide

end Sys2Proof
end

section
/-! SUPPORT. The opcode table as a set of disjoint rows: two rows of one variant's decoder disagree on a bit that both
test, and a row tests only bits that its op's format uses. Then the table's statement (R95). -/

namespace Sys2Proof

variable {v : Variant} {w : TWord}

/-- The members of the family WordInRow, as one statement. -/
theorem word_in_row (i : Instr) : Laws.WordInRow.Statement i :=
  match i with
  | .allCpuUnmappedRead a => Laws.WordInRow.allCpuUnmappedRead a
  | .allCpuUnmappedWrite a d => Laws.WordInRow.allCpuUnmappedWrite a d
  | .allPpuUnmappedRead a => Laws.WordInRow.allPpuUnmappedRead a
  | .allPpuUnmappedWrite a d => Laws.WordInRow.allPpuUnmappedWrite a d
  | .allNtMap a => Laws.WordInRow.allNtMap a
  | .allReserved => Laws.WordInRow.allReserved
  | .nromPrgRamRead a => Laws.WordInRow.nromPrgRamRead a
  | .nromPrgRamWrite a d => Laws.WordInRow.nromPrgRamWrite a d
  | .nromPrgRomRead a => Laws.WordInRow.nromPrgRomRead a
  | .nromPrgRomWrite a d => Laws.WordInRow.nromPrgRomWrite a d
  | .nromChrRead a => Laws.WordInRow.nromChrRead a
  | .nromChrWrite a d => Laws.WordInRow.nromChrWrite a d
  | .nromA12Rise => Laws.WordInRow.nromA12Rise
  | .nromIrqAck => Laws.WordInRow.nromIrqAck
  | .mmc1PrgRamRead a => Laws.WordInRow.mmc1PrgRamRead a
  | .mmc1PrgRamWrite a d => Laws.WordInRow.mmc1PrgRamWrite a d
  | .mmc1PrgRomRead a => Laws.WordInRow.mmc1PrgRomRead a
  | .mmc1Reset a d => Laws.WordInRow.mmc1Reset a d
  | .mmc1SerialControl a d => Laws.WordInRow.mmc1SerialControl a d
  | .mmc1SerialChr0 a d => Laws.WordInRow.mmc1SerialChr0 a d
  | .mmc1SerialChr1 a d => Laws.WordInRow.mmc1SerialChr1 a d
  | .mmc1SerialPrg a d => Laws.WordInRow.mmc1SerialPrg a d
  | .mmc1ChrRead a => Laws.WordInRow.mmc1ChrRead a
  | .mmc1ChrWrite a d => Laws.WordInRow.mmc1ChrWrite a d
  | .mmc1A12Rise => Laws.WordInRow.mmc1A12Rise
  | .mmc1IrqAck => Laws.WordInRow.mmc1IrqAck
  | .uxromWramRead a => Laws.WordInRow.uxromWramRead a
  | .uxromWramWrite a d => Laws.WordInRow.uxromWramWrite a d
  | .uxromPrgRomRead a => Laws.WordInRow.uxromPrgRomRead a
  | .uxromBankSelect a d => Laws.WordInRow.uxromBankSelect a d
  | .uxromChrRead a => Laws.WordInRow.uxromChrRead a
  | .uxromChrWrite a d => Laws.WordInRow.uxromChrWrite a d
  | .uxromA12Rise => Laws.WordInRow.uxromA12Rise
  | .uxromIrqAck => Laws.WordInRow.uxromIrqAck
  | .cnromWramRead a => Laws.WordInRow.cnromWramRead a
  | .cnromWramWrite a d => Laws.WordInRow.cnromWramWrite a d
  | .cnromPrgRomRead a => Laws.WordInRow.cnromPrgRomRead a
  | .cnromChrBankSelect a d => Laws.WordInRow.cnromChrBankSelect a d
  | .cnromChrRead a => Laws.WordInRow.cnromChrRead a
  | .cnromChrWrite a d => Laws.WordInRow.cnromChrWrite a d
  | .cnromA12Rise => Laws.WordInRow.cnromA12Rise
  | .cnromIrqAck => Laws.WordInRow.cnromIrqAck
  | .mmc3PrgRamRead a => Laws.WordInRow.mmc3PrgRamRead a
  | .mmc3PrgRamWrite a d => Laws.WordInRow.mmc3PrgRamWrite a d
  | .mmc3PrgRomRead a => Laws.WordInRow.mmc3PrgRomRead a
  | .mmc3BankSelect a d => Laws.WordInRow.mmc3BankSelect a d
  | .mmc3BankData a d => Laws.WordInRow.mmc3BankData a d
  | .mmc3Mirroring a d => Laws.WordInRow.mmc3Mirroring a d
  | .mmc3PrgRamProtect a d => Laws.WordInRow.mmc3PrgRamProtect a d
  | .mmc3IrqLatch a d => Laws.WordInRow.mmc3IrqLatch a d
  | .mmc3IrqReload a d => Laws.WordInRow.mmc3IrqReload a d
  | .mmc3IrqDisable a d => Laws.WordInRow.mmc3IrqDisable a d
  | .mmc3IrqEnable a d => Laws.WordInRow.mmc3IrqEnable a d
  | .mmc3ChrRead a => Laws.WordInRow.mmc3ChrRead a
  | .mmc3ChrWrite a d => Laws.WordInRow.mmc3ChrWrite a d
  | .mmc3A12Rise => Laws.WordInRow.mmc3A12Rise
  | .mmc3IrqAck => Laws.WordInRow.mmc3IrqAck

/-- A row tests every bit of `op`, and beyond it only fields that the op's format uses (R92): the address of an access,
the datum of a write. -/
def Row.testsUsedFields (r : Row) : Bool :=
  opField r.mask == 7 &&
  (decide ((opField r.pattern).toNat ≤ 3) || (addrField r.mask == 0 && addrField r.pattern == 0)) &&
  (opField r.pattern == 1 || opField r.pattern == 3 || (dataField r.mask == 0 && dataField r.pattern == 0))

theorem table_testsUsedFields : ∀ r ∈ table, r.testsUsedFields = true := by decide

/-- Whether a row takes a word is not changed by clearing the fields that the word's op ignores. -/
theorem Row.takes_of_takes_encode {r : Row} (hr : r ∈ table) (h : r.takes (encode (decode v w)) = true) :
    r.takes w = true := by
  have hused := table_testsUsedFields r hr
  simp only [Row.testsUsedFields, Bool.and_eq_true, Bool.or_eq_true, beq_iff_eq, decide_eq_true_eq] at hused
  obtain ⟨⟨hop, haddr⟩, hdata⟩ := hused
  rw [Row.takes_iff, encode_decode, opField_tword, addrField_tword, dataField_tword] at h
  obtain ⟨ho, ha, hd⟩ := h
  have hpat : opField w = opField r.pattern := by
    rw [hop] at ho
    exact (BitVec.and_allOnes (x := opField w)).symm.trans ho
  rw [← hpat] at haddr hdata
  refine (Row.takes_iff r w).2 ⟨ho, ?_, ?_⟩
  · rcases haddr with hle | ⟨hm, hp⟩
    · rwa [if_pos hle] at ha
    · rw [hm, hp, and_unmasked]
  · rcases hdata with hwr | ⟨hm, hp⟩
    · rwa [if_pos hwr] at hd
    · rw [hm, hp, and_unmasked]

/-- Two rows that no word belongs to both of: their patterns differ on a bit that both masks test. -/
def Row.disjoint (r r' : Row) : Bool := r.pattern &&& r'.mask != r'.pattern &&& r.mask

theorem Row.not_takes_of_disjoint {r r' : Row} (hd : r.disjoint r' = true) (h : r.takes w = true)
    (h' : r'.takes w = true) : False := by
  simp only [Row.takes, beq_iff_eq] at h h'
  simp only [Row.disjoint, bne_iff_ne, ne_eq] at hd
  exact hd (by rw [← h, ← h', BitVec.and_assoc, BitVec.and_assoc, BitVec.and_comm r.mask])

/-- The rows of one decoder are pairwise disjoint. -/
theorem rowsFor_disjoint (v : Variant) : (rowsFor v).Pairwise fun r r' => r.disjoint r' = true := by
  cases v <;> decide

/-- Of pairwise disjoint rows at most one takes a word, so the one that does is all the filter leaves. -/
theorem filter_takes_eq_singleton {rows : List Row} (hd : rows.Pairwise fun r r' => r.disjoint r' = true) {r : Row}
    (hr : r ∈ rows) (ht : r.takes w = true) : rows.filter (fun q => q.takes w) = [r] := by
  induction rows with
  | nil => cases hr
  | cons q rows ih =>
    obtain ⟨hq, hd⟩ := List.pairwise_cons.1 hd
    rcases List.mem_cons.1 hr with rfl | hr
    · rw [List.filter_cons_of_pos (p := fun q : Row => q.takes w) ht, List.filter_eq_nil_iff.2 fun q hmem hq' =>
        Row.not_takes_of_disjoint (hq q hmem) ht hq']
    · have hnot : ¬ q.takes w = true := fun hq' => Row.not_takes_of_disjoint (hq r hr) hq' ht
      rw [List.filter_cons_of_neg (p := fun q : Row => q.takes w) hnot, ih hd hr]

/-- Settles O2: the decoded transaction's word belongs to a row with its name, clearing ignored fields does not change
the rows that take a word, and no two rows of a variant take the same word. -/
theorem exactlyOneRowTakesEachWord : Obligations.ExactlyOneRowTakesEachWord := by
  intro v w
  obtain ⟨hwf, hv⟩ := decode_spelledIn v w
  obtain ⟨r, hr, hname, hvar, ht⟩ := word_in_row (decode v w) hwf
  refine ⟨r, filter_takes_eq_singleton (rowsFor_disjoint v) ?_ (Row.takes_of_takes_encode hr ht), hname, hvar⟩
  refine List.mem_filter.2 ⟨hr, ?_⟩
  rw [hvar]
  unfold Instr.inVariant at hv
  cases hu : (decode v w).variant? with
  | none => rfl
  | some u =>
    rw [hu] at hv
    simpa using hv

end Sys2Proof
end

section
/-! SUPPORT. The step through the decoder, and the operations a block refuses. Then their statements (R45, R74, R95,
R98). -/

namespace Sys2Proof.Machine

variable {i : Instr} {s t : State}

/-- Settles O7: the two lemmas about the step, one per shape of the queue. -/
theorem stepRunsDecodedTransaction : Obligations.StepRunsDecodedTransaction :=
  ⟨fun _ _ _ h => step_cons h, fun _ h => step_idle h⟩

theorem step_reserved {w : TWord} {ws : List TWord} (h : s.inputs = w :: ws) (hop : opField w = 7) :
    step s = .refused .reservedOp := by
  rw [step_cons h, decode_reserved hop]; rfl

/-- Settles O8: op 111 decodes to the reserved operation in every variant, and that is refused in every state. -/
theorem reservedOpIsRefused : Obligations.ReservedOpIsRefused :=
  ⟨fun _ => rfl, fun _ _ _ h hop => step_reserved h hop⟩

/-- Settles O10: every operation of a variant looks for that variant's registers first. -/
theorem foreignOperationIsRefused : Obligations.ForeignOperationIsRefused := by
  intro i s u hu hs
  cases i <;> cases hu <;> simp only [exec]
  case nromPrgRamRead | nromPrgRamWrite | nromPrgRomRead | nromPrgRomWrite | nromChrRead | nromChrWrite |
      nromA12Rise | nromIrqAck => exact State.withNrom_foreign hs
  case mmc1PrgRamRead | mmc1PrgRamWrite | mmc1PrgRomRead | mmc1Reset | mmc1SerialControl | mmc1SerialChr0 |
      mmc1SerialChr1 | mmc1SerialPrg | mmc1ChrRead | mmc1ChrWrite | mmc1A12Rise | mmc1IrqAck =>
    exact State.withMmc1_foreign hs
  case uxromWramRead | uxromWramWrite | uxromPrgRomRead | uxromBankSelect | uxromChrRead | uxromChrWrite |
      uxromA12Rise | uxromIrqAck => exact State.withUxrom_foreign hs
  case cnromWramRead | cnromWramWrite | cnromPrgRomRead | cnromChrBankSelect | cnromChrRead | cnromChrWrite |
      cnromA12Rise | cnromIrqAck => exact State.withCnrom_foreign hs
  case mmc3PrgRamRead | mmc3PrgRamWrite | mmc3PrgRomRead | mmc3BankSelect | mmc3BankData | mmc3Mirroring |
      mmc3PrgRamProtect | mmc3IrqLatch | mmc3IrqReload | mmc3IrqDisable | mmc3IrqEnable | mmc3ChrRead |
      mmc3ChrWrite | mmc3A12Rise | mmc3IrqAck => exact State.withMmc3_foreign hs

/-- Settles O23: the four operations touch neither storage nor registers. -/
theorem unmappedAddressesReachNothing : Obligations.UnmappedAddressesReachNothing :=
  fun _ _ _ => ⟨rfl, rfl, rfl, rfl⟩

end Sys2Proof.Machine
end

section
/-! SUPPORT. Reads: no transaction looks at the last answer, and a read replaces nothing but the answer. Then the
statement about reads (R70). -/

namespace Sys2Proof.Machine

variable {i : Instr} {s t : State}

/-- No transaction reads the answer of the one before it, and every one replaces it. -/
theorem exec_setReply (i : Instr) (s : State) (q : Reply) : exec i (s.setReply q) = exec i s := by
  cases i <;> rfl

/-- From `s` to `t` a value was returned and nothing else changed. -/
def Returned (s t : State) : Prop := ∃ r, r ≠ .nothing ∧ t = s.setReply r

theorem Returned.of_answer {b : Byte} (h : s.answer b = .next t) : Returned s t := by
  cases h; exact ⟨.byte b, by simp, rfl⟩

theorem Returned.of_openBus (h : s.answerOpenBus = .next t) : Returned s t := .of_answer h

theorem Returned.of_readPrgRam {o : Nat} (h : s.readPrgRam o = .next t) : Returned s t := .of_answer h

theorem Returned.of_readPrgRom {o : Nat} (h : s.readPrgRom o = .next t) : Returned s t :=
  ⟨_, by simp, (State.readPrgRom_next h).2⟩

theorem Returned.of_readChr {o : Nat} (h : s.readChr o = .next t) : Returned s t :=
  ⟨_, by simp, (State.readChr_next h).2⟩

/-- A read that completes returns a value and does nothing else. -/
theorem exec_read_returned (hi : isRead i = true) (h : exec i s = .next t) : Returned s t := by
  cases i <;> cases hi <;> simp only [exec] at h
  case allCpuUnmappedRead | allPpuUnmappedRead => exact .of_openBus h
  case allNtMap => cases h; exact ⟨_, by simp, rfl⟩
  case nromPrgRamRead =>
    obtain ⟨-, h⟩ := State.withNrom_next h
    split at h
    · exact .of_readPrgRam h
    · exact .of_openBus h
  case nromPrgRomRead => exact .of_readPrgRom (State.withNrom_next h).2
  case nromChrRead => exact .of_readChr (State.withNrom_next h).2
  case mmc1PrgRamRead =>
    obtain ⟨r, -, h⟩ := State.withMmc1_next h
    split at h
    · exact .of_openBus h
    · exact .of_readPrgRam h
  case mmc1PrgRomRead => obtain ⟨r, -, h⟩ := State.withMmc1_next h; exact .of_readPrgRom h
  case mmc1ChrRead => obtain ⟨r, -, h⟩ := State.withMmc1_next h; exact .of_readChr h
  case uxromWramRead => obtain ⟨r, -, h⟩ := State.withUxrom_next h; exact .of_openBus h
  case uxromPrgRomRead => obtain ⟨r, -, h⟩ := State.withUxrom_next h; exact .of_readPrgRom h
  case uxromChrRead => obtain ⟨r, -, h⟩ := State.withUxrom_next h; exact .of_readChr h
  case cnromWramRead => obtain ⟨r, -, h⟩ := State.withCnrom_next h; exact .of_openBus h
  case cnromPrgRomRead => obtain ⟨r, -, h⟩ := State.withCnrom_next h; exact .of_readPrgRom h
  case cnromChrRead => obtain ⟨r, -, h⟩ := State.withCnrom_next h; exact .of_readChr h
  case mmc3PrgRamRead =>
    obtain ⟨r, -, h⟩ := State.withMmc3_next h
    split at h
    · exact .of_readPrgRam h
    · exact .of_openBus h
  case mmc3PrgRomRead => obtain ⟨r, -, h⟩ := State.withMmc3_next h; exact .of_readPrgRom h
  case mmc3ChrRead => obtain ⟨r, -, h⟩ := State.withMmc3_next h; exact .of_readChr h

/-- Settles O16: a read returns a value and does nothing else; the state after it differs only in the answer, which
the same read does not look at. -/
theorem readsChangeNoState : Obligations.ReadsChangeNoState := by
  intro i s t hi h
  obtain ⟨r, hr, rfl⟩ := exec_read_returned hi h
  exact ⟨rfl, hr, (exec_setReply i s r).trans h⟩

end Sys2Proof.Machine
end

section
/-! SUPPORT. Which words write a register, and which addresses name the same one. Then their statements (R27, R97,
R170, R220). -/

namespace Sys2Proof.Machine

variable {v : Variant} {a a' : Addr} {d : Byte} {s : State}

theorem writesRegs_decodeCpuRead (v : Variant) (a : Addr) : writesRegs (decodeCpuRead v a) = false := by
  unfold decodeCpuRead
  split <;> cases v <;> rfl

theorem writesRegs_decodePpuRead (v : Variant) (a : Addr) : writesRegs (decodePpuRead v a) = false := by
  unfold decodePpuRead
  split <;> cases v <;> rfl

theorem writesRegs_decodePpuWrite (v : Variant) (a : Addr) (d : Byte) : writesRegs (decodePpuWrite v a d) = false := by
  unfold decodePpuWrite
  split <;> cases v <;> rfl

/-- Below $8000 no CPU write reaches a register. -/
theorem writesRegs_decodeCpuWrite_low (h : a.toNat < 0x8000) : writesRegs (decodeCpuWrite v a d) = false := by
  rcases Nat.lt_or_ge a.toNat 0x6000 with h' | h'
  · rw [decodeCpuWrite_unmapped h']; rfl
  · rw [decodeCpuWrite_ram h' h]; cases v <;> rfl

theorem mmc3_of_writesRegs_signal (h : writesRegs (decodeA12 v) = true ∨ writesRegs (decodeAck v) = true) :
    v = .mmc3 := by
  revert h; cases v <;> decide

/-- The words that can write a register: a CPU write to $8000-$FFFF, and MMC3's two signals. -/
theorem writesRegs_decode {w : TWord} (h : writesRegs (decode v w) = true) :
    (opField w = 1 ∧ 0x8000 ≤ (addrField w).toNat) ∨ (v = .mmc3 ∧ (opField w = 4 ∨ opField w = 5)) := by
  obtain ho | ho | ho | ho | ho | ho | ho | ho := opField_cases w
  · rw [decode_cpuRead ho, writesRegs_decodeCpuRead] at h; cases h
  · rcases Nat.lt_or_ge (addrField w).toNat 0x8000 with ha | ha
    · rw [decode_cpuWrite ho, writesRegs_decodeCpuWrite_low ha] at h; cases h
    · exact .inl ⟨ho, ha⟩
  · rw [decode_ppuRead ho, writesRegs_decodePpuRead] at h; cases h
  · rw [decode_ppuWrite ho, writesRegs_decodePpuWrite] at h; cases h
  · rw [decode_a12 ho] at h; exact .inr ⟨mmc3_of_writesRegs_signal (.inl h), .inl ho⟩
  · rw [decode_ack ho] at h; exact .inr ⟨mmc3_of_writesRegs_signal (.inr h), .inr ho⟩
  · rw [decode_ntMap ho] at h; cases h
  · rw [decode_reserved ho] at h; cases h

/-- Settles O19: only the effect of a register write changes the registers, and only those words have it. -/
theorem registersChangeOnlyByRomWritesAndSignals : Obligations.RegistersChangeOnlyByRomWritesAndSignals := by
  intro s t w ws hin h hne
  rw [step_cons hin] at h
  cases exec_effect h with
  | registers q hw _ _ => exact writesRegs_decode hw
  | _ => exact absurd rfl hne

/-! ## Addresses of one range -/

/-- MMC1 reads nothing of a write's address but its region. -/
theorem exec_decodeMmc1Write_congr (h : region a = region a') (d : Byte) (s : State) :
    exec (decodeMmc1Write a d) s = exec (decodeMmc1Write a' d) s := by
  unfold decodeMmc1Write
  rw [h]
  split
  · rfl
  · split <;> rfl

/-- MMC3 reads nothing of a write's address but its region and `A[0]`. -/
theorem exec_decodeMmc3Write_congr (h : region a = region a') (h0 : a.getLsbD 0 = a'.getLsbD 0) (d : Byte)
    (s : State) : exec (decodeMmc3Write a d) s = exec (decodeMmc3Write a' d) s := by
  unfold decodeMmc3Write
  rw [h, h0]
  split <;> rfl

/-- Without bus conflicts UxROM reads nothing of a bank select's address. -/
theorem exec_uxromBankSelect_congr (hc : s.params.uxromBusConflicts = false) (a a' : Addr) (d : Byte) :
    exec (.uxromBankSelect a d) s = exec (.uxromBankSelect a' d) s := by
  simp [exec, execUxromBankSelect, hc]

/-- A write to $8000-$FFFF at the head of the queue runs the variant's own write decoder. -/
theorem step_asmWr_rom (h : 0x8000 ≤ a.toNat) (s : State) (d : Byte) (ws : List TWord) :
    step { s with inputs := asmWr a d :: ws } = exec (decodeRomWrite s.variant a d) (s.take ws) := by
  rw [step_cons (s := { s with inputs := asmWr a d :: ws }) rfl]
  exact congrArg (fun i => exec i (s.take ws)) (decode_asmWr_rom h d)

/-- Settles O20: the words reach the variant's write decoder, which reads of the address only what names the
register. -/
theorem registerAddressesAlias : Obligations.RegisterAddressesAlias := by
  intro s a a' d ws ha ha'
  rw [step_asmWr_rom ha, step_asmWr_rom ha']
  refine ⟨fun hv hr h0 => ?_, fun hv hr => ?_, fun hv => ?_, fun hv hc => ?_⟩
  · rw [hv]; exact exec_decodeMmc3Write_congr hr h0 d _
  · rw [hv]; exact exec_decodeMmc1Write_congr hr d _
  · rw [hv]; rfl
  · rw [hv]; exact exec_uxromBankSelect_congr (s := s.take ws) hc a a' d

end Sys2Proof.Machine
end

section
/-! SUPPORT. Bank indices, the resolver's FourScreen mode and the bank view, NT_MAP and the mirroring output. Then
their statements (R62, R121, R126, R127, R167, R185, R205, R215, R245). -/

namespace Sys2Proof.Machine

variable {s : State}

/-- UxROM's bank register holds a bank that exists (R33). -/
theorem State.Inv.uxrom_bank_lt (hi : s.Inv) {r : Uxrom} (hr : s.regs = .uxrom r) : r.bank.toNat < s.cfg.nPrg16 := by
  have h := hi.regs
  rwa [hr, regsInv_uxrom] at h

/-- CNROM's bank register holds a bank that exists (R34). -/
theorem State.Inv.cnrom_chrBank_lt (hi : s.Inv) {r : Cnrom} (hr : s.regs = .cnrom r) :
    r.chrBank.toNat < s.cfg.nChr8 := by
  have h := hi.regs
  rwa [hr, regsInv_cnrom] at h

/-- Settles O21: the bank functions end in a remainder or in a constant below the count; the two bank registers that
hold reduced numbers do so by the invariant. -/
theorem bankIndicesAreRemaindersInRange : Obligations.BankIndicesAreRemaindersInRange :=
  ⟨fun _ _ h => ⟨rfl, norm_lt h⟩, fun r _ slot h => ⟨r.prgBank_lt slot h, r.chrBank_lt slot h⟩,
    fun r _ slot h => ⟨r.prgBank_lt slot h, r.chrBank_lt slot h⟩, fun _ _ hi hr => hi.uxrom_bank_lt hr,
    fun _ _ hi hr => hi.cnrom_chrBank_lt hr⟩

/-- Settles O24: the 12 bits that NT_MAP carries are all the resolver reads of the word's address. -/
theorem nametableMapAnswersTheResolver : Obligations.NametableMapAnswersTheResolver := by
  refine ⟨fun _ _ => rfl, fun s w ws hin hop => ?_⟩
  have hlow : resolve s.mirroring (((addrField w).extractLsb' 0 12).setWidth 16) =
      resolve s.mirroring (addrField w) := resolve_congr _ (by simp)
  rw [step_cons hin, decode_ntMap hop, ← hlow]
  rfl

theorem resolve_fourScreen_toNat (A : Addr) : (resolve .fourScreen A).toNat = A.toNat % 4096 := by
  simp [resolve]

theorem vramBank_toNat (m : Mirroring) (A : Addr) : (vramBank m A).toNat = (resolve m A).toNat / 1024 := by
  have := (resolve m A).isLt
  simp only [vramBank, BitVec.extractLsb'_toNat, Nat.shiftRight_eq_div_pow]
  omega

/-- With 2KB of VRAM every offset lies below 2048. -/
theorem resolve_lt_of_ne_fourScreen {m : Mirroring} (h : m ≠ .fourScreen) (A : Addr) :
    (resolve m A).toNat < 2048 := by
  cases m with
  | horizontal => rw [resolve_horizontal_toNat]; omega
  | vertical => rw [resolve_vertical_toNat]; omega
  | singleScreenLower => rw [resolve_singleScreenLower_toNat]; omega
  | singleScreenUpper => rw [resolve_singleScreenUpper_toNat]; omega
  | fourScreen => exact absurd rfl h

/-- Settles O26: FourScreen keeps the 12 bits, and the bank is the offset divided by 1KB. -/
theorem resolverFourScreenAndBankView : Obligations.ResolverFourScreenAndBankView := by
  intro m A
  refine ⟨resolve_fourScreen_toNat A, vramBank_toNat m A, fun h => ?_⟩
  have := resolve_lt_of_ne_fourScreen h A
  rw [vramBank_toNat]
  omega

theorem State.mirroring_header (h : s.variant = .nrom ∨ s.variant = .uxrom ∨ s.variant = .cnrom) :
    s.mirroring = s.cfg.mirroring := by
  cases hr : s.regs <;> simp_all [State.mirroring, State.variant]

theorem Mmc1.mirror_toNat (r : Mmc1) : r.mirror.toNat = r.control.toNat % 4 := by
  simp [Mmc1.mirror]

/-- Settles O27: the output is the header's field, or the mode that the variant's own register names. -/
theorem mirroringOutputPerVariant : Obligations.MirroringOutputPerVariant := by
  intro s
  refine ⟨State.mirroring_header, fun r hr => ?_, fun r hr => State.mirroring_mmc3 hr⟩
  rw [State.mirroring_mmc1 hr, Mmc1.mirroring, Mmc1.mirror_toNat]
  refine ⟨fun h => ?_, fun h => ?_, fun h => ?_, fun h => ?_⟩ <;> rw [h] <;> rfl

end Sys2Proof.Machine
end

section
/-! SUPPORT. The rest of the windows: each operation as the shared operation it is, and each window offset inside its
array by the invariant. The statements about the windows and about totality rest on this layer. -/

namespace Sys2Proof.Machine

variable {s : State}

/-- The configuration check of the variant whose registers the block holds. -/
theorem State.Inv.config_of_regs (hi : s.Inv) {r : Regs} (hr : s.regs = r) : configOk r.variant s.cfg = true :=
  State.variant_of_regs hr ▸ hi.config

/-! ## PRG-RAM behind a gate -/

/-- A PRG-RAM read behind the gate `c`. -/
def State.readGated (s : State) (c : Prop) [Decidable c] (o : Nat) : Result :=
  if c then s.readPrgRam o else s.answerOpenBus

/-- A PRG-RAM write behind the gate `c`. -/
def State.writeGated (s : State) (c : Prop) [Decidable c] (o : Nat) (d : Byte) : Result :=
  if c then s.writePrgRam o d else s.done

theorem State.readGated_eq (s : State) (c : Prop) [Decidable c] (o : Nat) :
    s.readGated c o = .next (s.setReply (.byte (if c then Memory.read s.prgRam o else s.params.openBus))) := by
  unfold State.readGated
  split <;> rfl

/-- The invariant is needed because a read after a write is only specified on canonical storage. -/
theorem State.writeGated_stores (hi : s.Inv) (c : Prop) [Decidable c] (o : Nat) (d : Byte) :
    ∃ t, s.writeGated c o d = .next t ∧ storesPrgRam s t c o d := by
  unfold State.writeGated
  split
  · rename_i hc
    have hread := Memory.read_write hi.prgRam_wf o d
    refine ⟨_, rfl, rfl, fun p => ⟨?_, ?_⟩⟩
    · rintro ⟨-, rfl⟩
      simp [hread]
    · intro hp
      have hne : p ≠ o := fun h => hp ⟨hc, h⟩
      simp [hread, hne]
  · rename_i hc
    exact ⟨_, rfl, rfl, fun p => ⟨fun h => absurd h.1 hc, fun _ => rfl⟩⟩

/-! ## NROM -/

section
variable (hr : s.regs = .nrom) (a : Addr) (d : Byte)
include hr

theorem exec_nromPrgRamRead :
    exec (.nromPrgRamRead a) s = s.readGated (s.params.nromPrgRam = true) (ramOffset a) :=
  State.withNrom_of (f := fun _ => s.readGated (s.params.nromPrgRam = true) (ramOffset a)) hr

theorem exec_nromPrgRamWrite :
    exec (.nromPrgRamWrite a d) s = s.writeGated (s.params.nromPrgRam = true) (ramOffset a) d :=
  State.withNrom_of (f := fun _ => s.writeGated (s.params.nromPrgRam = true) (ramOffset a) d) hr

theorem exec_nromPrgRomRead : exec (.nromPrgRomRead a) s = s.readPrgRom (s.cfg.fixedPrgOffset a) :=
  State.withNrom_of (f := fun _ => s.readPrgRom (s.cfg.fixedPrgOffset a)) hr

theorem fixedPrgOffset_lt_prgLen_of_nrom (hi : s.Inv) : s.cfg.fixedPrgOffset a < s.cfg.prgLen := by
  have hlen := (configOk_nrom (hi.config_of_regs hr)).1
  exact Cfg.fixedPrgOffset_lt a (by omega)

end

/-! ## MMC1 -/

section
variable {r : Mmc1} (hr : s.regs = .mmc1 r) (a : Addr) (d : Byte)
include hr

theorem exec_mmc1PrgRamRead :
    exec (.mmc1PrgRamRead a) s = s.readGated (r.prg.getLsbD 4 = false) (ramOffset a) := by
  refine (State.withMmc1_of hr).trans ?_
  unfold State.readGated Mmc1.ramDisable
  cases r.prg.getLsbD 4 <;> rfl

theorem exec_mmc1PrgRamWrite :
    exec (.mmc1PrgRamWrite a d) s = s.writeGated (r.prg.getLsbD 4 = false) (ramOffset a) d := by
  refine (State.withMmc1_of hr).trans ?_
  unfold State.writeGated Mmc1.ramDisable
  cases r.prg.getLsbD 4 <;> rfl

theorem exec_mmc1PrgRomRead : exec (.mmc1PrgRomRead a) s = s.readPrgRom (r.prgOffset s.cfg a) :=
  State.withMmc1_of hr

theorem exec_mmc1ChrRead : exec (.mmc1ChrRead a) s = s.readChr (r.chrOffset s.cfg a) := State.withMmc1_of hr

theorem exec_mmc1ChrWrite : exec (.mmc1ChrWrite a d) s = s.writeChr (r.chrOffset s.cfg a) d :=
  State.withMmc1_of hr

theorem mmc1_prgOffset_lt_prgLen (hi : s.Inv) : r.prgOffset s.cfg a < s.cfg.prgLen :=
  r.prgOffset_lt a (configOk_mmc1 (hi.config_of_regs hr)).1.1

theorem mmc1_chrOffset_lt_chrLen (hi : s.Inv) : r.chrOffset s.cfg a < s.cfg.chrLen :=
  r.chrOffset_lt a (Cfg.nChr4_pos (configOk_mmc1 (hi.config_of_regs hr)).2.1)

end

/-! ## UxROM -/

section
variable {r : Uxrom} (hr : s.regs = .uxrom r) (a : Addr) (d : Byte)
include hr

theorem exec_uxromPrgRomRead : exec (.uxromPrgRomRead a) s = s.readPrgRom (r.prgOffset s.cfg a) :=
  State.withUxrom_of hr

theorem exec_uxromChrRead : exec (.uxromChrRead a) s = s.readChr (fixedChrOffset a) := State.withUxrom_of hr

theorem exec_uxromChrWrite : exec (.uxromChrWrite a d) s = s.writeChr (fixedChrOffset a) d :=
  State.withUxrom_of hr

theorem uxrom_prgOffset_lt_prgLen (hi : s.Inv) : r.prgOffset s.cfg a < s.cfg.prgLen :=
  Uxrom.prgOffset_lt a (hi.uxrom_bank_lt hr)

theorem fixedChrOffset_lt_chrLen_of_uxrom (hi : s.Inv) : fixedChrOffset a < s.cfg.chrLen :=
  (configOk_uxrom (hi.config_of_regs hr)).2 ▸ fixedChrOffset_lt a

/-- In a constructed block the bank select is the comparison of R201 and the register write, and never stops. -/
theorem exec_uxromBankSelect (hi : s.Inv) :
    exec (.uxromBankSelect a d) s =
      if s.params.uxromBusConflicts = true ∧ d ≠ Memory.read s.prgRom (r.prgOffset s.cfg a) then
        .next (s.setReply .nothing)
      else .next ((s.setRegs (.uxrom ⟨BitVec.ofNat 8 (norm d.toNat s.cfg.nPrg16)⟩)).setReply .nothing) := by
  have hsel : s.selectUxromBank d =
      .next ((s.setRegs (.uxrom ⟨BitVec.ofNat 8 (norm d.toNat s.cfg.nPrg16)⟩)).setReply .nothing) :=
    State.selectUxromBank_of (Nat.ne_of_gt (configOk_uxrom (hi.config_of_regs hr)).1.1)
  refine (State.withUxrom_of hr).trans ?_
  cases hc : s.params.uxromBusConflicts with
  | false => simp [hsel]
  | true =>
    rw [State.prgByte?_of_lt (uxrom_prgOffset_lt_prgLen hr a hi), hsel]
    by_cases hd : d = Memory.read s.prgRom (r.prgOffset s.cfg a) <;> simp [hd]

end

/-! ## CNROM -/

theorem exec_cnromChrBankSelect {r : Cnrom} (hr : s.regs = .cnrom r) (hi : s.Inv) (a : Addr) (d : Byte) :
    exec (.cnromChrBankSelect a d) s =
      .next ((s.setRegs (.cnrom ⟨BitVec.ofNat 8 (norm d.toNat s.cfg.nChr8)⟩)).setReply .nothing) :=
  (State.withCnrom_of hr).trans (if_neg (Nat.ne_of_gt (configOk_cnrom (hi.config_of_regs hr)).2.1))

/-! ## MMC3 -/

section
variable {r : Mmc3} (hr : s.regs = .mmc3 r) (a : Addr) (d : Byte)
include hr

theorem exec_mmc3PrgRamRead : exec (.mmc3PrgRamRead a) s = s.readGated (r.ramEnable = true) (ramOffset a) :=
  State.withMmc3_of hr

theorem exec_mmc3PrgRamWrite :
    exec (.mmc3PrgRamWrite a d) s =
      s.writeGated (r.ramEnable = true ∧ r.ramProtect = false) (ramOffset a) d := by
  refine (State.withMmc3_of hr).trans ?_
  unfold State.writeGated
  cases r.ramEnable <;> cases r.ramProtect <;> rfl

theorem exec_mmc3PrgRomRead : exec (.mmc3PrgRomRead a) s = s.readPrgRom (r.prgOffset s.cfg a) :=
  State.withMmc3_of hr

theorem exec_mmc3ChrRead : exec (.mmc3ChrRead a) s = s.readChr (r.chrOffset s.cfg a) := State.withMmc3_of hr

theorem exec_mmc3ChrWrite : exec (.mmc3ChrWrite a d) s = s.writeChr (r.chrOffset s.cfg a) d :=
  State.withMmc3_of hr

theorem mmc3_prgOffset_lt_prgLen (hi : s.Inv) : r.prgOffset s.cfg a < s.cfg.prgLen :=
  r.prgOffset_lt a (configOk_mmc3 (hi.config_of_regs hr)).1.1

theorem mmc3_chrOffset_lt_chrLen (hi : s.Inv) : r.chrOffset s.cfg a < s.cfg.chrLen :=
  r.chrOffset_lt a (configOk_mmc3 (hi.config_of_regs hr)).2.1

end

end Sys2Proof.Machine
end

section
/-! SUPPORT. In a block that meets the invariant every operation of its variant but the reserved one completes. Then
the statement about stops (R98, R260). -/

namespace Sys2Proof.Machine

variable {s : State} {i : Instr} {a : Addr} {d : Byte} {o : Nat}

/-- The transaction answers a next state. -/
def Completes (r : Result) : Prop := ∃ t, r = .next t

theorem Completes.next (t : State) : Completes (.next t) := ⟨t, rfl⟩

theorem Completes.readGated (c : Prop) [Decidable c] : Completes (s.readGated c o) := ⟨_, s.readGated_eq c o⟩

theorem Completes.writeGated (c : Prop) [Decidable c] : Completes (s.writeGated c o d) := by
  unfold State.writeGated
  split <;> exact .next _

theorem Completes.readPrgRom (h : o < s.cfg.prgLen) : Completes (s.readPrgRom o) := ⟨_, State.readPrgRom_of_lt h⟩

theorem Completes.readChr (h : o < s.cfg.chrLen) : Completes (s.readChr o) := ⟨_, State.readChr_of_lt h⟩

theorem Completes.writeChr (hi : s.Inv) (h : o < s.cfg.chrLen) : Completes (s.writeChr o d) := by
  obtain ⟨t, ht, -⟩ := State.writeChr_stores hi h d
  exact ⟨t, ht⟩

/-- The operations of every variant. -/
theorem exec_completes_all (hv : i.variant? = none) (hne : i ≠ .allReserved) : Completes (exec i s) := by
  cases i <;> cases hv
  case allReserved => exact absurd rfl hne
  all_goals exact .next _

theorem exec_completes_nrom (hi : s.Inv) (hr : s.regs = .nrom) (hv : i.variant? = some .nrom) :
    Completes (exec i s) := by
  have hp := fun a => fixedPrgOffset_lt_prgLen_of_nrom hr a hi
  have hc := fixedChrOffset_lt_chrLen_of_nrom hi hr
  have hsignal := exec_signals_of_ne_mmc3 (s := s) (by simp [State.variant_of_regs hr])
  rw [State.variant_of_regs hr] at hsignal
  cases i <;> cases hv
  case nromPrgRamRead a => rw [exec_nromPrgRamRead hr]; exact .readGated _
  case nromPrgRamWrite a d => rw [exec_nromPrgRamWrite hr]; exact .writeGated _
  case nromPrgRomRead a => rw [exec_nromPrgRomRead hr]; exact .readPrgRom (hp a)
  case nromPrgRomWrite a d => exact ⟨_, exec_nromPrgRomWrite hr a d⟩
  case nromChrRead a => rw [exec_nromChrRead hr]; exact .readChr (hc a)
  case nromChrWrite a d => rw [exec_nromChrWrite hr]; exact .writeChr hi (hc a)
  case nromA12Rise => exact ⟨_, hsignal.1⟩
  case nromIrqAck => exact ⟨_, hsignal.2⟩

theorem exec_completes_mmc1 (hi : s.Inv) {r : Mmc1} (hr : s.regs = .mmc1 r) (hv : i.variant? = some .mmc1) :
    Completes (exec i s) := by
  have hp := fun a => mmc1_prgOffset_lt_prgLen hr a hi
  have hc := fun a => mmc1_chrOffset_lt_chrLen hr a hi
  cases i <;> cases hv
  case mmc1PrgRamRead a => rw [exec_mmc1PrgRamRead hr]; exact .readGated _
  case mmc1PrgRamWrite a d => rw [exec_mmc1PrgRamWrite hr]; exact .writeGated _
  case mmc1PrgRomRead a => rw [exec_mmc1PrgRomRead hr]; exact .readPrgRom (hp a)
  case mmc1ChrRead a => rw [exec_mmc1ChrRead hr]; exact .readChr (hc a)
  case mmc1ChrWrite a d => rw [exec_mmc1ChrWrite hr]; exact .writeChr hi (hc a)
  case mmc1SerialControl | mmc1SerialChr0 | mmc1SerialChr1 | mmc1SerialPrg => exact ⟨_, State.mmc1Serial_of hr⟩
  case mmc1Reset | mmc1A12Rise | mmc1IrqAck => exact ⟨_, State.withMmc1_of hr⟩

theorem exec_completes_uxrom (hi : s.Inv) {r : Uxrom} (hr : s.regs = .uxrom r) (hv : i.variant? = some .uxrom) :
    Completes (exec i s) := by
  have hp := fun a => uxrom_prgOffset_lt_prgLen hr a hi
  have hc := fun a => fixedChrOffset_lt_chrLen_of_uxrom hr a hi
  cases i <;> cases hv
  case uxromPrgRomRead a => rw [exec_uxromPrgRomRead hr]; exact .readPrgRom (hp a)
  case uxromBankSelect a d => rw [exec_uxromBankSelect hr a d hi]; split <;> exact .next _
  case uxromChrRead a => rw [exec_uxromChrRead hr]; exact .readChr (hc a)
  case uxromChrWrite a d => rw [exec_uxromChrWrite hr]; exact .writeChr hi (hc a)
  case uxromWramRead | uxromWramWrite | uxromA12Rise | uxromIrqAck => exact ⟨_, State.withUxrom_of hr⟩

theorem exec_completes_cnrom (hi : s.Inv) {r : Cnrom} (hr : s.regs = .cnrom r) (hv : i.variant? = some .cnrom) :
    Completes (exec i s) := by
  have hp := fixedPrgOffset_lt_prgLen_of_cnrom hi hr
  have hc := cnrom_chrOffset_lt_chrLen hi hr
  cases i <;> cases hv
  case cnromPrgRomRead a => rw [exec_cnromPrgRomRead hr]; exact .readPrgRom (hp a)
  case cnromChrBankSelect a d => exact ⟨_, exec_cnromChrBankSelect hr hi a d⟩
  case cnromChrRead a => rw [exec_cnromChrRead hr]; exact .readChr (hc a)
  case cnromChrWrite a d => rw [exec_cnromChrWrite hr]; exact .writeChr hi (hc a)
  case cnromWramRead | cnromWramWrite | cnromA12Rise | cnromIrqAck => exact ⟨_, State.withCnrom_of hr⟩

theorem exec_completes_mmc3 (hi : s.Inv) {r : Mmc3} (hr : s.regs = .mmc3 r) (hv : i.variant? = some .mmc3) :
    Completes (exec i s) := by
  have hp := fun a => mmc3_prgOffset_lt_prgLen hr a hi
  have hc := fun a => mmc3_chrOffset_lt_chrLen hr a hi
  cases i <;> cases hv
  case mmc3PrgRamRead a => rw [exec_mmc3PrgRamRead hr]; exact .readGated _
  case mmc3PrgRamWrite a d => rw [exec_mmc3PrgRamWrite hr]; exact .writeGated _
  case mmc3PrgRomRead a => rw [exec_mmc3PrgRomRead hr]; exact .readPrgRom (hp a)
  case mmc3ChrRead a => rw [exec_mmc3ChrRead hr]; exact .readChr (hc a)
  case mmc3ChrWrite a d => rw [exec_mmc3ChrWrite hr]; exact .writeChr hi (hc a)
  all_goals exact ⟨_, State.mmc3Update_of hr⟩

/-- A block that meets the invariant completes every operation it has but the reserved one. -/
theorem exec_completes (hi : s.Inv) (hv : i.inVariant s.variant = true) (hne : i ≠ .allReserved) :
    Completes (exec i s) := by
  cases hu : i.variant? with
  | none => exact exec_completes_all hu hne
  | some u =>
    rw [← Instr.eq_of_inVariant hu hv] at hu
    obtain ⟨hs, hr⟩ | ⟨hs, r, hr⟩ | ⟨hs, r, hr⟩ | ⟨hs, r, hr⟩ | ⟨hs, r, hr⟩ := s.regs_of_variant <;> rw [hs] at hu
    · exact exec_completes_nrom hi hr hu
    · exact exec_completes_mmc1 hi hr hu
    · exact exec_completes_uxrom hi hr hu
    · exact exec_completes_cnrom hi hr hu
    · exact exec_completes_mmc3 hi hr hu

/-- Only op 111 decodes to the reserved operation. -/
theorem decode_ne_reserved {v : Variant} {w : TWord} (h : opField w ≠ 7) : decode v w ≠ .allReserved := by
  intro hres
  have hop := congrArg opField (encode_decode v w)
  rw [hres, opField_tword] at hop
  exact h hop.symm

/-- Settles O9: what the decoder gives is an operation of the block, and the block completes it unless it is the
reserved one. -/
theorem onlyTheReservedOpIsNotExecuted : Obligations.OnlyTheReservedOpIsNotExecuted := by
  intro s hi
  refine ⟨fun w ws hin hop => ?_, fun w ws hin hop => step_reserved hin hop, step_idle⟩
  rw [step_cons hin]
  exact exec_completes (s := s.take ws) ((State.inv_take ws).2 hi) (decode_spelledIn s.variant w).2
    (decode_ne_reserved hop)

end Sys2Proof.Machine
end

section
/-! SUPPORT. Bank numbers in arithmetic: clearing bit 0 of a register and putting the slot there, and the last two of
`n` banks. -/

namespace Sys2Proof.Machine

theorem and_even4 : ∀ x : BitVec 4, (x &&& 0xE).toNat = x.toNat / 2 * 2 := by decide

theorem and_even5 : ∀ x : BitVec 5, (x &&& 0x1E).toNat = x.toNat / 2 * 2 := by decide

theorem and_even8 : ∀ x : Byte, (x &&& 0xFE).toNat = x.toNat / 2 * 2 := by decide

theorem or_odd8 : ∀ x : Byte, (x ||| 1).toNat = x.toNat / 2 * 2 + 1 := by decide

/-- A slot of two in the place of a cleared bit 0 is the slot added. -/
theorem even_or_slot (m : Nat) {slot : Nat} (h : slot < 2) : m * 2 ||| slot = m * 2 + slot := by
  have := Nat.two_pow_add_eq_or_of_lt (i := 1) h m
  rw [Nat.mul_comm m 2]
  exact this.symm

/-- The second-to-last of `n` banks, which is the only one when `n` is 1 (R230). -/
theorem secondToLast_eq {n : Nat} (h : 0 < n) : (2 * n - 2) % n = if n = 1 then 0 else n - 2 := by
  split
  · rename_i h1; rw [h1]
  · rw [show 2 * n - 2 = n + (n - 2) by omega, Nat.add_mod_left, Nat.mod_eq_of_lt (by omega)]

theorem Mmc1.prgMode_toNat (r : Mmc1) : r.prgMode.toNat = r.control.toNat / 4 % 4 := by
  simp [Mmc1.prgMode, BitVec.extractLsb'_toNat, Nat.shiftRight_eq_div_pow]

theorem Mmc1.bank_toNat (r : Mmc1) : r.bank.toNat = r.prg.toNat % 16 := by
  simp [Mmc1.bank]

/-! ## MMC1's bank functions by mode (R178, R179) -/

variable {slot : Nat}

theorem Mmc1.prgBank_32k (r : Mmc1) (n : Nat) (hm : r.control.toNat / 4 % 4 ≤ 1) (hs : slot < 2) :
    r.prgBank n slot = (r.prg.toNat % 16 / 2 * 2 + slot) % n := by
  rw [← Mmc1.prgMode_toNat] at hm
  rw [← Mmc1.bank_toNat, ← even_or_slot _ hs, ← and_even4]
  unfold Mmc1.prgBank
  generalize r.prgMode.toNat = m at *
  interval_cases m <;> rfl

theorem Mmc1.prgBank_fixFirst (r : Mmc1) (n slot : Nat) (hm : r.control.toNat / 4 % 4 = 2) :
    r.prgBank n slot = if slot = 0 then 0 else r.prg.toNat % 16 % n := by
  rw [Mmc1.prgBank, Mmc1.prgMode_toNat, hm, Mmc1.bank_toNat]; rfl

theorem Mmc1.prgBank_fixLast (r : Mmc1) (n slot : Nat) (hm : r.control.toNat / 4 % 4 = 3) :
    r.prgBank n slot = if slot = 0 then r.prg.toNat % 16 % n else n - 1 := by
  rw [Mmc1.prgBank, Mmc1.prgMode_toNat, hm, Mmc1.bank_toNat]; rfl

theorem Mmc1.chrBank_8k (r : Mmc1) (n : Nat) (hm : r.control.getLsbD 4 = false) (hs : slot < 2) :
    r.chrBank n slot = (r.chr0.toNat / 2 * 2 + slot) % n := by
  rw [Mmc1.chrBank, Mmc1.chrMode, hm, ← even_or_slot _ hs, ← and_even5]; rfl

theorem Mmc1.chrBank_4k (r : Mmc1) (n slot : Nat) (hm : r.control.getLsbD 4 = true) :
    r.chrBank n slot = if slot = 0 then r.chr0.toNat % n else r.chr1.toNat % n := by
  rw [Mmc1.chrBank, Mmc1.chrMode, hm]; rfl

/-! ## MMC3's bank functions by slot (R230, R231) -/

variable {n : Nat}

theorem Mmc3.prgBank_slot0 (r : Mmc3) (hn : 0 < n) :
    r.prgBank n 0 = if r.prgMode = true then (if n = 1 then 0 else n - 2) else r.r[6].toNat % n := by
  rw [← secondToLast_eq hn]
  cases h : r.prgMode <;> simp [Mmc3.prgBank, h, norm]

theorem Mmc3.prgBank_slot1 (r : Mmc3) (n : Nat) : r.prgBank n 1 = r.r[7].toNat % n := rfl

theorem Mmc3.prgBank_slot2 (r : Mmc3) (hn : 0 < n) :
    r.prgBank n 2 = if r.prgMode = true then r.r[6].toNat % n else (if n = 1 then 0 else n - 2) := by
  rw [← secondToLast_eq hn]
  cases h : r.prgMode <;> simp [Mmc3.prgBank, h, norm]

theorem Mmc3.prgBank_slot3 (r : Mmc3) (n : Nat) : r.prgBank n 3 = n - 1 := by
  cases h : r.prgMode <;> simp [Mmc3.prgBank]

/-- The four 1KB slots of the 2KB banks: R0 and R1 with the slot's parity for bit 0. -/
theorem Mmc3.chrRaw_2k (r : Mmc3) (h : slot < 4) :
    (r.chrRaw slot).toNat = (if slot < 2 then r.r[0] else r.r[1]).toNat / 2 * 2 + slot % 2 := by
  interval_cases slot
  · exact and_even8 _
  · exact or_odd8 _
  · exact and_even8 _
  · exact or_odd8 _

/-- The raw bank that an address shows, its slot folded by the CHR mode. -/
theorem Mmc3.chrBank_chrSlot1 (r : Mmc3) (n : Nat) (a : Addr) :
    r.chrBank n (chrSlot1 a) =
      (r.chrRaw (if r.chrMode = true then (a.toNat / 1024 + 4) % 8 else a.toNat / 1024 % 8)).toNat % n := by
  rw [Mmc3.chrBank, norm, chrSlot1, Nat.mod_add_mod]

end Sys2Proof.Machine
end

section
/-! SUPPORT. What the windows of NROM, MMC1, UxROM, CNROM and MMC3 show and store: the statements, each from the
layer above (R161-R163, R178-R184, R200-R204, R208, R211, R214, R218, R230, R231, R240-R244). -/

namespace Sys2Proof.Machine

/-- Settles O28: both operations are the shared access behind the parameter's gate. -/
theorem nromPrgRamFollowsTheParameter : Obligations.NromPrgRamFollowsTheParameter := by
  intro s a d hi hr
  rw [exec_nromPrgRamRead hr, exec_nromPrgRamWrite hr]
  exact ⟨State.readGated_eq _ _ _, State.writeGated_stores hi _ _ d⟩

/-- The two halves of NROM's window show the same byte of a 16KB image. -/
theorem fixedPrgOffset_mirrored {c : Cfg} (hc : c.prgLen = 16384) (o : Nat) :
    c.fixedPrgOffset (BitVec.ofNat 16 (0x8000 + o)) = c.fixedPrgOffset (BitVec.ofNat 16 (0xC000 + o)) := by
  simp only [Cfg.fixedPrgOffset, slotOffset, BitVec.toNat_ofNat, hc]
  omega

/-- Settles O29: the window offset is a remainder of the image's length, which for 16KB folds the halves. -/
theorem nromPrgRomReadMirrorsSmallImages : Obligations.NromPrgRomReadMirrorsSmallImages := by
  intro s a hi hr
  refine ⟨?_, fun hlen o _ => ?_⟩
  · rw [exec_nromPrgRomRead hr]
    exact State.readPrgRom_of_lt (fixedPrgOffset_lt_prgLen_of_nrom hr a hi)
  · rw [exec_nromPrgRomRead hr, exec_nromPrgRomRead hr, fixedPrgOffset_mirrored hlen o]

/-- Settles O32: both operations are the shared access behind the gate of `m1.prg[4]`. -/
theorem mmc1PrgRamGate : Obligations.Mmc1PrgRamGate := by
  intro s r a d hi hr
  rw [exec_mmc1PrgRamRead hr, exec_mmc1PrgRamWrite hr]
  exact ⟨State.readGated_eq _ _ _, State.writeGated_stores hi _ _ d⟩

/-- Settles O33: the window reads in the bank of `Mmc1.prgBank`, which each mode gives in arithmetic. -/
theorem mmc1PrgRomReadByMode : Obligations.Mmc1PrgRomReadByMode := by
  rintro s r a n mode bank slot hi hr rfl rfl rfl rfl
  refine ⟨r.prgBank s.cfg.nPrg16 (prgSlot16 a), ?_, fun hm => r.prgBank_32k _ hm (Nat.mod_lt _ two_pos),
    r.prgBank_fixFirst _ _, r.prgBank_fixLast _ _⟩
  rw [exec_mmc1PrgRomRead hr]
  exact State.readPrgRom_of_lt (mmc1_prgOffset_lt_prgLen hr a hi)

/-- Settles O34: the window reads and writes in the bank of `Mmc1.chrBank`, which each mode gives in arithmetic. -/
theorem mmc1ChrAccessByMode : Obligations.Mmc1ChrAccessByMode := by
  rintro s r a d n slot hi hr rfl rfl
  have ho := mmc1_chrOffset_lt_chrLen hr a hi
  refine ⟨r.chrBank s.cfg.nChr4 (chrSlot4 a), fun hm => r.chrBank_8k _ hm (Nat.mod_lt _ two_pos),
    r.chrBank_4k _ _, ?_⟩
  rw [exec_mmc1ChrRead hr, exec_mmc1ChrWrite hr]
  exact ⟨State.readChr_of_lt ho, State.writeChr_stores hi ho d⟩

/-- Settles O39: in a constructed block the bank select is the comparison with the byte shown and the reduced write. -/
theorem uxromBankSelect : Obligations.UxromBankSelect := by
  rintro s r a d n hi hr rfl
  exact exec_uxromBankSelect hr a d hi

/-- Settles O40: the window offsets lie in their arrays; the window without PRG-RAM reaches nothing. -/
theorem uxromWindows : Obligations.UxromWindows := by
  intro s r a d hi hr
  have ho := fixedChrOffset_lt_chrLen_of_uxrom hr a hi
  rw [exec_uxromPrgRomRead hr, exec_uxromChrRead hr, exec_uxromChrWrite hr]
  exact ⟨State.readPrgRom_of_lt (uxrom_prgOffset_lt_prgLen hr a hi), State.readChr_of_lt ho,
    State.writeChr_stores hi ho d, State.withUxrom_of hr, State.withUxrom_of hr⟩

/-- Settles O41: the bank count is positive, so the bank select completes; the window without PRG-RAM reaches
nothing. -/
theorem cnromBankSelectAndWramWindow : Obligations.CnromBankSelectAndWramWindow := by
  intro s a d hi hv
  obtain ⟨hs, -⟩ | ⟨hs, -⟩ | ⟨hs, -⟩ | ⟨-, r, hr⟩ | ⟨hs, -⟩ := s.regs_of_variant
  case inr.inr.inr.inl =>
    exact ⟨exec_cnromChrBankSelect hr hi a d, State.withCnrom_of hr, State.withCnrom_of hr⟩
  all_goals rw [hv] at hs; cases hs

/-- Settles O48: both operations are the shared access behind the gates of the protect register. -/
theorem mmc3PrgRamGates : Obligations.Mmc3PrgRamGates := by
  intro s r a d hi hr
  rw [exec_mmc3PrgRamRead hr, exec_mmc3PrgRamWrite hr]
  exact ⟨State.readGated_eq _ _ _, State.writeGated_stores hi _ _ d⟩

/-- Settles O49: the window reads in the bank of `Mmc3.prgBank`, which each slot gives in arithmetic. -/
theorem mmc3PrgRomReadByMode : Obligations.Mmc3PrgRomReadByMode := by
  rintro s r a n slot hi hr rfl rfl
  have hn : 0 < s.cfg.nPrg8 := (configOk_mmc3 (hi.config_of_regs hr)).1.1
  refine ⟨r.prgBank s.cfg.nPrg8 (prgSlot8 a), ?_, fun h => ?_, fun h => ?_, fun h => ?_, fun h => ?_⟩
  · rw [exec_mmc3PrgRomRead hr]
    exact State.readPrgRom_of_lt (mmc3_prgOffset_lt_prgLen hr a hi)
  · rw [prgSlot8, h]; exact r.prgBank_slot0 hn
  · rw [prgSlot8, h]; exact r.prgBank_slot1 _
  · rw [prgSlot8, h]; exact r.prgBank_slot2 hn
  · rw [prgSlot8, h]; exact r.prgBank_slot3 _

/-- Settles O50: the window reads and writes in the bank of `Mmc3.chrBank`, the raw bank of the folded slot, reduced. -/
theorem mmc3ChrAccessByMode : Obligations.Mmc3ChrAccessByMode := by
  intro s r a d n slot hi hr hn hslot
  have ho := mmc3_chrOffset_lt_chrLen hr a hi
  have hk : r.chrBank s.cfg.nChr1 (chrSlot1 a) = (r.chrRaw slot).toNat % n := by
    rw [hn, hslot]; exact r.chrBank_chrSlot1 _ a
  refine ⟨r.chrBank s.cfg.nChr1 (chrSlot1 a), fun h => ⟨_, rfl, ?_⟩, ?_, ?_, ?_, ?_, ?_⟩
  · rw [hk, r.chrRaw_2k h]
  · rintro rfl; exact hk
  · rintro rfl; exact hk
  · rintro rfl; exact hk
  · rintro rfl; exact hk
  · rw [exec_mmc3ChrRead hr, exec_mmc3ChrWrite hr]
    exact ⟨State.readChr_of_lt ho, State.writeChr_stores hi ho d⟩

end Sys2Proof.Machine
end

section
/-! SUPPORT. MMC1's register writes: the reset write, the serial step in the statements' terms, and a sequence of five
serial writes. Then their statements (R171-R177). -/

namespace Sys2Proof.Machine

variable {s : State} {r q : Mmc1} {a : Addr} {d : Byte}

/-- What forcing PRG mode 3 does to the control register: bits 3:2 set, the others kept. -/
theorem or_mode3 : ∀ c : BitVec 5, (c ||| 0x0C).toNat / 4 % 4 = 3 ∧ (c ||| 0x0C).toNat % 4 = c.toNat % 4 ∧
    (c ||| 0x0C).getLsbD 4 = c.getLsbD 4 := by decide

/-- Settles O35: the reset write or-s the mode bits into control and drops the sequence. -/
theorem mmc1ResetWriteForcesMode3 : Obligations.Mmc1ResetWriteForcesMode3 := by
  intro s r a d hr
  obtain ⟨hmode, hmirror, hchr⟩ := or_mode3 r.control
  exact ⟨r.control ||| 0x0C, hmode, hmirror, hchr, State.withMmc1_of hr⟩

theorem extract_bit0 : ∀ d : Byte, d.extractLsb' 0 1 = BitVec.ofBool (d.getLsbD 0) := by decide

theorem Mmc1.accumulate_eq (r : Mmc1) (d : Byte) :
    r.accumulate d = r.shift ||| ((BitVec.ofBool (d.getLsbD 0)).setWidth 5 <<< r.count.toNat) := by
  rw [Mmc1.accumulate, extract_bit0]

theorem count_eq_four {c : BitVec 3} : c = 4 ↔ c.toNat = 4 := BitVec.toNat_inj.symm

/-- The write that finds the counter at 4 completes the sequence. -/
theorem Mmc1.serialStep_complete (f : Mmc1 → BitVec 5 → Mmc1) (d : Byte) (h : r.count.toNat = 4) :
    r.serialStep d f = { f r (r.accumulate d) with shift := 0, count := 0 } := if_pos (count_eq_four.2 h)

/-- Every other write shifts. -/
theorem Mmc1.serialStep_shift (f : Mmc1 → BitVec 5 → Mmc1) (d : Byte) (h : r.count.toNat ≠ 4) :
    r.serialStep d f = { r with shift := r.accumulate d, count := r.count + 1 } :=
  if_neg fun hc => h (count_eq_four.1 hc)

/-- Settles O36: the first region is Control's, and the serial step shifts or completes by the counter. -/
theorem mmc1SerialControl : Obligations.Mmc1SerialControl := by
  intro s r a d acc hr hacc
  rw [← Mmc1.accumulate_eq] at hacc
  subst hacc
  refine ⟨fun ha hd => ?_, ?_⟩
  · rw [State.variant_of_regs hr]
    exact (decode_asmWr_rom (by omega) d).trans (decodeMmc1Write_control ((region_toNat a).trans ha) hd)
  · refine (State.mmc1Serial_of hr).trans ?_
    split
    · rename_i h; rw [Mmc1.serialStep_complete _ d h]; rfl
    · rename_i h; rw [Mmc1.serialStep_shift _ d h]; rfl

/-- Settles O37: the three other targets shift in the same way, and each completes into its own register. -/
theorem mmc1SerialBankRegisters : Obligations.Mmc1SerialBankRegisters := by
  intro s r a d acc hr hacc
  rw [← Mmc1.accumulate_eq] at hacc
  subst hacc
  refine ⟨fun h i hi => ?_, fun h => ?_⟩
  · obtain ⟨f, hf⟩ : ∃ f, exec i s = s.mmc1Serial d f := by
      obtain rfl | rfl | rfl := hi <;> exact ⟨_, rfl⟩
    rw [hf, State.mmc1Serial_of hr, Mmc1.serialStep_shift _ d h]
    rfl
  · have complete := fun f => (State.mmc1Serial_of (d := d) (c := f) hr).trans
      (by rw [Mmc1.serialStep_complete f d h])
    exact ⟨complete _, complete _, complete _⟩

/-! ## A sequence of five writes -/

/-- The target write of the range that `a` lies in (R171). -/
def serialTarget (a : Addr) (r : Mmc1) (acc : BitVec 5) : Mmc1 :=
  match (region a).toNat with
  | 4 => { r with control := acc }
  | 5 => { r with chr0 := acc }
  | 6 => { r with chr1 := acc }
  | _ => { r with prg := acc }

/-- A serial write is the serial step with the target of its address. -/
theorem exec_decodeMmc1Write_serial (hd : d.getLsbD 7 = false) :
    exec (decodeMmc1Write a d) s = s.mmc1Serial d (serialTarget a) := by
  have h8 := (region a).isLt
  unfold decodeMmc1Write serialTarget
  rw [hd]
  generalize (region a).toNat = n at *
  interval_cases n <;> rfl

/-- One serial write taken from the queue. -/
theorem step_serial (hr : s.regs = .mmc1 q) {ws : List TWord} (hin : s.inputs = asmWr a d :: ws)
    (ha : 0x8000 ≤ a.toNat) (hd : d.getLsbD 7 = false) :
    ∃ t, step s = .next t ∧ t.inputs = ws ∧ t.regs = .mmc1 (q.serialStep d (serialTarget a)) := by
  refine ⟨((s.take ws).setRegs (.mmc1 (q.serialStep d (serialTarget a)))).setReply .nothing, ?_, rfl, rfl⟩
  rw [step_cons hin, State.variant_of_regs hr, decode_asmWr_rom ha]
  exact (exec_decodeMmc1Write_serial hd).trans (State.mmc1Serial_of hr)

/-- Within a sequence the accumulated bits are a sum: the new bit comes in above the ones already there. -/
theorem Mmc1.accumulate_toNat (d : Byte) (hc : r.count.toNat ≤ 4) (hs : r.shift.toNat < 2 ^ r.count.toNat) :
    (r.accumulate d).toNat = r.shift.toNat + d.toNat % 2 * 2 ^ r.count.toNat := by
  have hbit : 2 ^ r.count.toNat * (d.toNat % 2) < 2 ^ 5 :=
    calc 2 ^ r.count.toNat * (d.toNat % 2) ≤ 2 ^ 4 * 1 :=
          Nat.mul_le_mul (Nat.pow_le_pow_right two_pos hc) (by omega)
      _ < 2 ^ 5 := by decide
  have hshift : ((d.extractLsb' 0 1).setWidth 5 <<< r.count.toNat).toNat = 2 ^ r.count.toNat * (d.toNat % 2) := by
    have h2 : d.toNat % 2 < 2 ^ 5 := by omega
    rw [BitVec.toNat_shiftLeft, BitVec.toNat_setWidth, BitVec.extractLsb'_toNat, Nat.shiftRight_zero,
      Nat.pow_one, Nat.mod_eq_of_lt h2, Nat.shiftLeft_eq, Nat.mul_comm, Nat.mod_eq_of_lt hbit]
  rw [Mmc1.accumulate, BitVec.toNat_or, hshift, Nat.or_comm, ← Nat.two_pow_add_eq_or_of_lt hs, Nat.add_comm,
    Nat.mul_comm]

/-- `q` is `r` in the middle of a sequence that has collected `k` bits of value `m`. -/
def Mmc1.Collected (r : Mmc1) (k m : Nat) (q : Mmc1) : Prop :=
  q = { r with shift := q.shift, count := q.count } ∧ q.count.toNat = k ∧ q.shift.toNat = m ∧ m < 2 ^ k

variable {k m : Nat}

/-- Before the fifth write the target does not matter: one more bit is collected. -/
theorem Mmc1.Collected.next (h : r.Collected k m q) (hk : k < 4) (f : Mmc1 → BitVec 5 → Mmc1) (d : Byte) :
    r.Collected (k + 1) (m + d.toNat % 2 * 2 ^ k) (q.serialStep d f) := by
  obtain ⟨hq, rfl, rfl, hm⟩ := h
  rw [Mmc1.serialStep_shift f d (by omega)]
  refine ⟨?_, ?_, Mmc1.accumulate_toNat d (by omega) hm, ?_⟩
  · rw [hq]
  · simp only [BitVec.toNat_add, BitVec.reduceToNat]
    omega
  · rw [← Mmc1.accumulate_toNat d (by omega) hm]
    exact Mmc1.accumulate_lt d hm

/-- The fifth write puts the five bits into its own target and nothing else into any register. -/
theorem Mmc1.Collected.complete (h : r.Collected 4 m q) (hs : r.shift = 0) (hc : r.count = 0) (a : Addr) (d : Byte) :
    ∃ v : BitVec 5, v.toNat = m + d.toNat % 2 * 16 ∧ q.serialStep d (serialTarget a) = serialTarget a r v := by
  obtain ⟨hq, hk, rfl, hm⟩ := h
  refine ⟨q.accumulate d, ?_, ?_⟩
  · simpa [hk] using Mmc1.accumulate_toNat d hk.le (hk ▸ hm)
  · rw [Mmc1.serialStep_complete _ d hk]
    generalize q.accumulate d = v
    rw [hq]
    obtain ⟨shift, count, control, chr0, chr1, prg⟩ := r
    obtain rfl : shift = 0 := hs
    obtain rfl : count = 0 := hc
    unfold serialTarget
    split <;> rfl

/-- Settles O38: four steps collect a bit each whatever their addresses, the fifth completes into its own target. -/
theorem mmc1FiveWritesFillTheFifthTarget : Obligations.Mmc1FiveWritesFillTheFifthTarget := by
  intro s r a0 a1 a2 a3 a4 d0 d1 d2 d3 d4 ws hr hs hc ha hd hin
  simp only [List.forall_mem_cons, List.not_mem_nil, IsEmpty.forall_iff, implies_true, and_true] at ha hd
  obtain ⟨ha0, ha1, ha2, ha3, ha4⟩ := ha
  obtain ⟨hd0, hd1, hd2, hd3, hd4⟩ := hd
  have h0 : r.Collected 0 0 r := ⟨rfl, by rw [hc]; rfl, by rw [hs]; rfl, by decide⟩
  obtain ⟨s1, e1, hin1, hr1⟩ := step_serial hr hin ha0 hd0
  obtain ⟨s2, e2, hin2, hr2⟩ := step_serial hr1 hin1 ha1 hd1
  obtain ⟨s3, e3, hin3, hr3⟩ := step_serial hr2 hin2 ha2 hd2
  obtain ⟨s4, e4, hin4, hr4⟩ := step_serial hr3 hin3 ha3 hd3
  obtain ⟨t, e5, hin5, hr5⟩ := step_serial hr4 hin4 ha4 hd4
  have h4 := (((h0.next (by decide) (serialTarget a0) d0).next (by decide) (serialTarget a1) d1).next
    (by decide) (serialTarget a2) d2).next (by decide) (serialTarget a3) d3
  obtain ⟨v, hv, hstep⟩ := h4.complete hs hc a4 d4
  have htarget : ∀ n, a4.toNat / 8192 = n → (region a4).toNat = n := fun n h => (region_toNat a4).trans h
  rw [hstep] at hr5
  refine ⟨t, v, ?_, hin5, by omega, fun h => ?_, fun h => ?_, fun h => ?_, fun h => ?_⟩
  · rw [stepTimes_succ e1, stepTimes_succ e2, stepTimes_succ e3, stepTimes_succ e4, stepTimes_succ e5,
      stepTimes_zero]
  all_goals simp only [hr5, serialTarget, htarget _ h]

end Sys2Proof.Machine
end

section
/-! SUPPORT. MMC3's register writes and its scanline counter: the closed form of an A12 rise, and the counting law by
induction over the rises. Then their statements (R222-R225, R229, R232, R233, R235). -/

namespace Sys2Proof.Machine

variable {i : Instr} {s t : State} {r : Mmc3}

/-- Settles O43: select takes three bit fields of the datum; bank data sets one element of the eight. -/
theorem mmc3BankSelectAndData : Obligations.Mmc3BankSelectAndData := by
  intro s r a d hr
  refine ⟨⟨r.select d, State.mmc3Update_of (f := fun q => q.select d) hr, rfl, ?_, rfl, rfl⟩,
    ⟨r.bankData d, State.mmc3Update_of (f := fun q => q.bankData d) hr, rfl, fun k hk => ?_⟩⟩
  · simp [Mmc3.select]
  · simp only [Mmc3.bankData, Vector.getElem_set, eq_comm]

/-- Settles O44: each of the four is the shared register update with its own function of the registers. -/
theorem mmc3MirroringProtectEnableAcknowledge : Obligations.Mmc3MirroringProtectEnableAcknowledge := by
  intro s r a d hr
  exact ⟨State.mmc3Update_of (f := fun q => q.setMirror d) hr, State.mmc3Update_of (f := fun q => q.setProtect d) hr,
    State.mmc3Update_of (f := fun q => q.enableIrq) hr, State.mmc3Update_of (f := fun q => q.clearIrq) hr⟩

/-! ## The scanline counter -/

/-- The counter after an A12 rise: the latch when it was 0 or a reload was due, one less otherwise (R232). -/
def Mmc3.nextCount (r : Mmc3) : BitVec 8 :=
  if r.irqCounter = 0 ∨ r.irqReload = true then r.irqLatch else r.irqCounter - 1

/-- The registers after a rise that leaves the counter at `c`. -/
def Mmc3.afterRise (r : Mmc3) (c : BitVec 8) : Mmc3 :=
  { r with irqCounter := c, irqReload := false, irqPending := r.irqPending || (decide (c = 0) && r.irqEnable) }

theorem Mmc3.countEdge_eq (r : Mmc3) : r.countEdge = { r with irqCounter := r.nextCount, irqReload := false } := by
  unfold Mmc3.countEdge Mmc3.nextCount
  split
  · rfl
  · rename_i h
    have hreload : r.irqReload = false := by
      cases hr : r.irqReload with
      | false => rfl
      | true => exact absurd (.inr hr) h
    rw [← hreload]

theorem Mmc3.zeroTest_eq (r : Mmc3) :
    r.zeroTest = { r with irqPending := r.irqPending || (decide (r.irqCounter = 0) && r.irqEnable) } := by
  unfold Mmc3.zeroTest Mmc3.raiseIrq
  split
  · rename_i h; simp [h]
  · rename_i h
    have hoff : (decide (r.irqCounter = 0) && r.irqEnable) = false := by simpa using h
    rw [hoff, Bool.or_false]

theorem Mmc3.a12Rise_eq (r : Mmc3) : r.a12Rise = r.afterRise r.nextCount := by
  rw [Mmc3.a12Rise, Mmc3.countEdge_eq, Mmc3.zeroTest_eq]; rfl

theorem exec_mmc3A12Rise (hr : s.regs = .mmc3 r) :
    exec .mmc3A12Rise s = .next ((s.setRegs (.mmc3 (r.afterRise r.nextCount))).setReply .nothing) := by
  rw [← Mmc3.a12Rise_eq]
  exact State.mmc3Update_of (f := fun q => q.a12Rise) hr

theorem Mmc3.nextCount_reload (h : r.irqCounter = 0 ∨ r.irqReload = true) : r.nextCount = r.irqLatch := if_pos h

theorem Mmc3.nextCount_count (hc : r.irqCounter.toNat ≠ 0) (hr : r.irqReload = false) :
    r.nextCount.toNat + 1 = r.irqCounter.toNat := by
  have h0 : r.irqCounter ≠ 0 := fun h => hc (by rw [h]; rfl)
  have h : ¬ (r.irqCounter = 0 ∨ r.irqReload = true) := not_or.2 ⟨h0, by simp [hr]⟩
  rw [Mmc3.nextCount, if_neg h]
  bv_omega

/-- Settles O46: the closed form of a rise, with the counter it leaves. -/
theorem mmc3A12RiseCounts : Obligations.Mmc3A12RiseCounts := by
  intro s r hr
  refine ⟨r.nextCount, fun h => Mmc3.nextCount_reload (h.imp_left fun h0 => BitVec.eq_of_toNat_eq h0),
    Mmc3.nextCount_count, ?_⟩
  have hzero : decide (r.nextCount.toNat = 0) = decide (r.nextCount = 0) :=
    decide_eq_decide.2 (BitVec.toNat_inj (y := 0))
  rw [hzero]
  exact exec_mmc3A12Rise hr

/-- The registers while they count: the counter at `c`, no reload due, the request at `p`. -/
def Mmc3.counting (r : Mmc3) (c : BitVec 8) (p : Bool) : Mmc3 :=
  { r with irqCounter := c, irqReload := false, irqPending := p }

theorem Mmc3.afterRise_enabled (he : r.irqEnable = true) (c : BitVec 8) :
    r.afterRise c = r.counting c (r.irqPending || decide (c = 0)) := by
  simp [Mmc3.afterRise, Mmc3.counting, he]

/-- One operation more, at the end of the run. -/
theorem execTimes_succ_right {k : Nat} (h : execTimes k i s = .next t) : execTimes (k + 1) i s = exec i t := by
  induction k generalizing s with
  | zero =>
    cases h
    simp only [execTimes]
    split <;> simp_all
  | succ k ih =>
    rw [execTimes] at h
    split at h
    · rename_i u hu
      rw [execTimes_succ hu, ih h]
    · cases h
    · cases h

/-- The block while it counts. -/
def counting (s : State) (r : Mmc3) (c : BitVec 8) (p : Bool) : State :=
  (s.setRegs (.mmc3 (r.counting c p))).setReply .nothing

/-- The rise that reloads. -/
theorem exec_rise_reload (hr : s.regs = .mmc3 r) (habout : r.irqReload = true ∨ r.irqCounter = 0)
    (he : r.irqEnable = true) :
    exec .mmc3A12Rise s = .next (counting s r r.irqLatch (r.irqPending || decide (r.irqLatch = 0))) := by
  rw [exec_mmc3A12Rise hr, Mmc3.nextCount_reload habout.symm, Mmc3.afterRise_enabled he]
  rfl

/-- A rise that decrements. -/
theorem exec_rise_count {c c' : BitVec 8} {p : Bool} (hc : c'.toNat + 1 = c.toNat) (he : r.irqEnable = true) :
    exec .mmc3A12Rise (counting s r c p) = .next (counting s r c' (p || decide (c' = 0))) := by
  have hnext : (r.counting c p).nextCount.toNat + 1 = c.toNat :=
    Mmc3.nextCount_count (show c.toNat ≠ 0 by omega) rfl
  have hc' : (r.counting c p).nextCount = c' := BitVec.eq_of_toNat_eq (by omega)
  rw [exec_mmc3A12Rise (r := r.counting c p) rfl, hc',
    Mmc3.afterRise_enabled (r := r.counting c p) he]
  rfl

/-- While the counter has not come down to 0 the request is as it was. -/
theorem execTimes_rise_counting (hr : s.regs = .mmc3 r) (habout : r.irqReload = true ∨ r.irqCounter = 0)
    (he : r.irqEnable = true) {j : Nat} (hj : j < r.irqLatch.toNat) :
    execTimes (j + 1) .mmc3A12Rise s =
      .next (counting s r (BitVec.ofNat 8 (r.irqLatch.toNat - j)) r.irqPending) := by
  induction j with
  | zero =>
    have hne : r.irqLatch ≠ 0 := fun h => by rw [h] at hj; exact absurd hj (by decide)
    rw [execTimes_succ_right rfl, exec_rise_reload hr habout he, decide_eq_false hne, Bool.or_false, Nat.sub_zero,
      BitVec.ofNat_toNat, BitVec.setWidth_eq]
  | succ j ih =>
    have hlt := r.irqLatch.isLt
    have hcount : ∀ m, (BitVec.ofNat 8 (r.irqLatch.toNat - m)).toNat = r.irqLatch.toNat - m := fun m => by
      rw [BitVec.toNat_ofNat, Nat.mod_eq_of_lt (by omega)]
    have hstep : (BitVec.ofNat 8 (r.irqLatch.toNat - (j + 1))).toNat + 1 =
        (BitVec.ofNat 8 (r.irqLatch.toNat - j)).toNat := by
      rw [hcount, hcount]; omega
    have hne : BitVec.ofNat 8 (r.irqLatch.toNat - (j + 1)) ≠ 0 := fun h => by
      have h0 := hcount (j + 1)
      rw [h] at h0
      exact absurd h0 (Nat.ne_of_lt (Nat.sub_pos_of_lt hj))
    rw [execTimes_succ_right (ih (by omega)), exec_rise_count hstep he, decide_eq_false hne, Bool.or_false]

/-- The rise after the latch's number of rises leaves the counter at 0 and raises the request. -/
theorem execTimes_rise_zero (hr : s.regs = .mmc3 r) (habout : r.irqReload = true ∨ r.irqCounter = 0)
    (he : r.irqEnable = true) :
    execTimes (r.irqLatch.toNat + 1) .mmc3A12Rise s = .next (counting s r 0 true) := by
  cases hl : r.irqLatch.toNat with
  | zero =>
    have h0 : r.irqLatch = 0 := BitVec.eq_of_toNat_eq hl
    rw [execTimes_succ_right rfl, exec_rise_reload hr habout he, h0]
    simp
  | succ j =>
    have hprev := execTimes_rise_counting hr habout he (j := j) (by omega)
    rw [hl, Nat.add_sub_cancel_left] at hprev
    rw [execTimes_succ_right hprev, exec_rise_count (c' := 0) rfl he]
    simp

/-- Settles O47: by induction over the rises the counter is the latch less the rises since the reload, so it reaches
0, which raises the request, at rise `L + 1` and not before. -/
theorem mmc3CountingLaw : Obligations.Mmc3CountingLaw := by
  intro s r hr habout he
  refine ⟨fun k hk => ?_, execTimes_rise_zero hr habout he⟩
  cases k with
  | zero => exact ⟨s, rfl, rfl⟩
  | succ j =>
    exact ⟨_, execTimes_rise_counting hr habout he hk, (State.irqPending_mmc3 hr).symm⟩

end Sys2Proof.Machine
end

section
/-! SUPPORT. What every operation leaves in MMC3's registers, and what that says of the request and its enable. Then
the statement about the interrupt request (R262, R263). -/

namespace Sys2Proof.Machine

variable {i : Instr} {s t : State} {r : Mmc3}

/-- MMC3's registers after the operation: the register writes and the two signals each have a function of the old
ones, no other operation touches them. -/
def Mmc3.after (r : Mmc3) : Instr → Mmc3
  | .mmc3BankSelect _ d => r.select d
  | .mmc3BankData _ d => r.bankData d
  | .mmc3Mirroring _ d => r.setMirror d
  | .mmc3PrgRamProtect _ d => r.setProtect d
  | .mmc3IrqLatch _ d => r.setLatch d
  | .mmc3IrqReload _ _ => r.requestReload
  | .mmc3IrqDisable _ _ => r.disableIrq
  | .mmc3IrqEnable _ _ => r.enableIrq
  | .mmc3A12Rise => r.a12Rise
  | .mmc3IrqAck => r.clearIrq
  | _ => r

theorem Mmc3.after_of_not_writesRegs (h : writesRegs i = false) : r.after i = r := by
  cases i <;> cases h <;> rfl

/-- An operation of another variant does not complete. -/
theorem exec_ne_next_of_foreign {u : Variant} (hu : i.variant? = some u) (hs : s.variant ≠ u) :
    exec i s ≠ .next t := by
  rw [foreignOperationIsRefused i s u hu hs]
  simp

theorem exec_regs_of_not_writesRegs (hw : writesRegs i = false) (h : exec i s = .next t) : t.regs = s.regs := by
  cases exec_effect h with
  | registers q hw' _ _ => rw [hw] at hw'; cases hw'
  | _ => rfl

theorem exec_regs_mmc3_of_writesRegs (hr : s.regs = .mmc3 r) (hw : writesRegs i = true) (h : exec i s = .next t) :
    t.regs = .mmc3 (r.after i) := by
  have hv := State.variant_of_regs hr
  cases i <;> cases hw
  case mmc1Reset | mmc1SerialControl | mmc1SerialChr0 | mmc1SerialChr1 | mmc1SerialPrg =>
    exact absurd h (exec_ne_next_of_foreign (u := .mmc1) rfl (by simp [hv]))
  case uxromBankSelect => exact absurd h (exec_ne_next_of_foreign (u := .uxrom) rfl (by simp [hv]))
  case cnromChrBankSelect => exact absurd h (exec_ne_next_of_foreign (u := .cnrom) rfl (by simp [hv]))
  all_goals
    cases (State.mmc3Update_of hr).symm.trans h
    rfl

/-- The registers of an MMC3 after a transaction that completes. -/
theorem exec_regs_mmc3 (hr : s.regs = .mmc3 r) (h : exec i s = .next t) : t.regs = .mmc3 (r.after i) := by
  cases hw : writesRegs i with
  | false => rw [Mmc3.after_of_not_writesRegs hw, exec_regs_of_not_writesRegs hw h, hr]
  | true => exact exec_regs_mmc3_of_writesRegs hr hw h

theorem Mmc3.a12Rise_irqEnable (r : Mmc3) : r.a12Rise.irqEnable = r.irqEnable := by rw [Mmc3.a12Rise_eq]; rfl

/-- A rise raises the request exactly when it leaves the counter at 0 while enabled. -/
theorem Mmc3.a12Rise_irqPending (r : Mmc3) : r.a12Rise.irqPending =
    (r.irqPending || (decide (r.a12Rise.irqCounter = 0) && r.a12Rise.irqEnable)) := by
  rw [Mmc3.a12Rise_eq]; rfl

/-- Only the enable write and the disable write change the enable. -/
theorem Mmc3.after_irqEnable (r : Mmc3) (i : Instr) :
    ((∃ a d, i = .mmc3IrqEnable a d) ∧ (r.after i).irqEnable = true) ∨
    ((∃ a d, i = .mmc3IrqDisable a d) ∧ (r.after i).irqEnable = false) ∨
    (r.after i).irqEnable = r.irqEnable := by
  cases i
  case mmc3IrqDisable a d => exact .inr (.inl ⟨⟨a, d, rfl⟩, rfl⟩)
  case mmc3IrqEnable a d => exact .inl ⟨⟨a, d, rfl⟩, rfl⟩
  case mmc3A12Rise => exact .inr (.inr r.a12Rise_irqEnable)
  all_goals exact .inr (.inr rfl)

/-- Only an A12 rise raises the request; only the disable write and the acknowledge clear it. -/
theorem Mmc3.after_irqPending (r : Mmc3) (i : Instr) :
    i = .mmc3A12Rise ∨
    ((i = .mmc3IrqAck ∨ ∃ a d, i = .mmc3IrqDisable a d) ∧ (r.after i).irqPending = false) ∨
    (r.after i).irqPending = r.irqPending := by
  cases i
  case mmc3IrqDisable a d => exact .inr (.inl ⟨.inr ⟨a, d, rfl⟩, rfl⟩)
  case mmc3A12Rise => exact .inl rfl
  case mmc3IrqAck => exact .inr (.inl ⟨.inl rfl, rfl⟩)
  all_goals exact .inr (.inr rfl)

/-- The request goes up. -/
theorem Mmc3.after_raises (h : r.irqPending = false) (h' : (r.after i).irqPending = true) :
    i = .mmc3A12Rise ∧ (r.after i).irqCounter = 0 ∧ (r.after i).irqEnable = true := by
  obtain rfl | ⟨-, hq⟩ | hq := r.after_irqPending i
  · have hp := r.a12Rise_irqPending.symm.trans h'
    rw [h, Bool.false_or, Bool.and_eq_true, decide_eq_true_eq] at hp
    exact ⟨rfl, hp⟩
  · rw [hq] at h'; cases h'
  · rw [hq, h] at h'; cases h'

/-- The request goes down. -/
theorem Mmc3.after_clears (h : r.irqPending = true) (h' : (r.after i).irqPending = false) :
    i = .mmc3IrqAck ∨ ∃ a d, i = .mmc3IrqDisable a d := by
  obtain rfl | ⟨hi, -⟩ | hq := r.after_irqPending i
  · have hp := r.a12Rise_irqPending
    rw [h, Bool.true_or] at hp
    rw [show (r.after .mmc3A12Rise).irqPending = true from hp] at h'
    cases h'
  · exact hi
  · rw [hq, h] at h'; cases h'

/-- The enable changes. -/
theorem Mmc3.after_enable_changes (h : r.irqEnable ≠ (r.after i).irqEnable) :
    ((r.after i).irqEnable = true ∧ ∃ a d, i = .mmc3IrqEnable a d) ∨
    ((r.after i).irqEnable = false ∧ ∃ a d, i = .mmc3IrqDisable a d) := by
  obtain ⟨hi, hq⟩ | ⟨hi, hq⟩ | hq := r.after_irqEnable i
  · exact .inl ⟨hq, hi⟩
  · exact .inr ⟨hq, hi⟩
  · exact absurd hq.symm h

theorem State.irqPending_true (h : s.irqPending = true) : ∃ r, s.regs = .mmc3 r ∧ r.irqPending = true := by
  cases hr : s.regs with
  | mmc3 r => exact ⟨r, rfl, (State.irqPending_mmc3 hr).symm.trans h⟩
  | _ => rw [State.irqPending_other (by simp [State.variant, hr])] at h; cases h

/-- An MMC3 stays one, with the registers of `Mmc3.after`. -/
theorem step_regs_mmc3 {w : TWord} {ws : List TWord} (hin : s.inputs = w :: ws) (h : step s = .next t)
    {q : Mmc3} (hq : t.regs = .mmc3 q) : ∃ r, s.regs = .mmc3 r ∧ q = r.after (decode s.variant w) := by
  have hv := step_variant h
  rw [State.variant_of_regs hq] at hv
  cases hr : s.regs with
  | mmc3 r =>
    rw [step_cons hin] at h
    have ht := exec_regs_mmc3 (s := s.take ws) hr h
    exact ⟨r, rfl, Regs.mmc3.inj (hq.symm.trans ht)⟩
  | _ => rw [State.variant_of_regs hr] at hv; cases hv

/-- Settles O51: every clause is about an MMC3, whose registers after the step are `Mmc3.after` of those before. -/
theorem interruptRequestIsSetAndClearedOnlyAsStated :
    Obligations.InterruptRequestIsSetAndClearedOnlyAsStated := by
  refine ⟨fun _ => State.irqPending_true, fun _ _ => State.irqPending_mmc3, fun s t w ws hin h =>
    ⟨fun hs ht => ?_, fun hs ht => ?_, fun r q hr hq hne => ?_, fun q hq => ?_⟩⟩
  · obtain ⟨q, hq, hp⟩ := State.irqPending_true ht
    obtain ⟨r, hr, rfl⟩ := step_regs_mmc3 hin h hq
    rw [State.irqPending_mmc3 hr] at hs
    obtain ⟨hi, hrise⟩ := Mmc3.after_raises hs hp
    exact ⟨hi, _, hq, hrise⟩
  · obtain ⟨r, hr, hp⟩ := State.irqPending_true hs
    rw [step_cons hin] at h
    rw [State.irqPending_mmc3 (exec_regs_mmc3 (s := s.take ws) hr h)] at ht
    exact Mmc3.after_clears hp ht
  · obtain ⟨r', hr', rfl⟩ := step_regs_mmc3 hin h hq
    cases hr.symm.trans hr'
    exact Mmc3.after_enable_changes hne
  · obtain ⟨r, -, rfl⟩ := step_regs_mmc3 hin h hq
    refine ⟨fun a d hi => ?_, fun a d hi => ?_, fun hi => ?_, fun hi hc he => ?_⟩
    · rw [hi]; rfl
    · rw [hi]; exact ⟨rfl, rfl⟩
    · rw [hi]; rfl
    · rw [hi] at hc he ⊢
      have hc : r.a12Rise.irqCounter = 0 := hc
      have he : r.a12Rise.irqEnable = true := he
      exact r.a12Rise_irqPending.trans (by simp [hc, he])

end Sys2Proof.Machine
end

section
/-! SUPPORT. The header in arithmetic: flags as binary digits, numbers and sizes as sums of fields. Then the statements
about parsing (R130-R142). -/

namespace Sys2Proof.Machine

variable {image : List Byte} {rom : RomImage}

/-! ## Fields of the header's bytes -/

/-- A flag is the binary digit of its place. -/
theorem getLsbD_eq_decide (b : Byte) (i : Nat) : b.getLsbD i = decide (b.toNat / 2 ^ i % 2 = 1) :=
  Nat.testBit_eq_decide_div_mod_eq

theorem low_nibble_toNat (b : Byte) : (b.extractLsb' 0 4).toNat = b.toNat % 16 := by simp

theorem high_nibble_toNat (b : Byte) : (b.extractLsb' 4 4).toNat = b.toNat / 16 := by
  have := b.isLt
  simp only [BitVec.extractLsb'_toNat, Nat.shiftRight_eq_div_pow]
  omega

theorem formatBits_toNat (image : List Byte) : (formatBits image).toNat = (imageByte image 7).toNat / 4 % 4 := by
  simp only [formatBits, BitVec.extractLsb'_toNat, Nat.shiftRight_eq_div_pow]

theorem isExtended_eq (image : List Byte) : isExtended image = decide ((imageByte image 7).toNat / 4 % 4 = 2) := by
  rw [← formatBits_toNat]
  exact decide_eq_decide.2 (BitVec.toNat_inj (y := 2)).symm

theorem headerMapper_toNat (image : List Byte) : (headerMapper image).toNat =
    (if isExtended image = true then (imageByte image 8).toNat % 16 else 0) * 256 +
      (imageByte image 7).toNat / 16 * 16 + (imageByte image 6).toNat / 16 := by
  simp only [headerMapper, append_toNat_eq_add, high_nibble_toNat, apply_ite BitVec.toNat, low_nibble_toNat,
    BitVec.ofNat_eq_ofNat, BitVec.toNat_ofNat, Nat.zero_mod]
  omega

theorem headerSubmapper_toNat (image : List Byte) : (headerSubmapper image).toNat =
    if isExtended image = true then (imageByte image 8).toNat / 16 else 0 := by
  simp only [headerSubmapper, apply_ite BitVec.toNat, high_nibble_toNat, BitVec.ofNat_eq_ofNat,
    BitVec.toNat_ofNat, Nat.zero_mod]

theorem exponentSize_eq (b : Byte) (unit : Nat) :
    exponentSize b unit = 2 ^ (b.toNat / 4) * (2 * (b.toNat % 4) + 1) / unit * unit := by
  have he : (b.extractLsb' 2 6).toNat = b.toNat / 4 := by
    have := b.isLt
    simp only [BitVec.extractLsb'_toNat, Nat.shiftRight_eq_div_pow]
    omega
  have hm : (b.extractLsb' 0 2).toNat = b.toNat % 4 := by simp
  rw [exponentSize, he, hm, Nat.one_shiftLeft]

/-- A region's size in bytes by format and high nibble (R133, R135, R136). -/
theorem regionSize_eq (x : Bool) (high : BitVec 4) (b : Byte) (unit : Nat) :
    regionSize x high b unit =
      if x = false then b.toNat * unit
      else if high.toNat = 15 then 2 ^ (b.toNat / 4) * (2 * (b.toNat % 4) + 1) / unit * unit
      else (high.toNat * 256 + b.toNat) * unit := by
  have hf : high = 0xF ↔ high.toNat = 15 := (BitVec.toNat_inj (y := 0xF)).symm
  cases x with
  | false => rfl
  | true => simp only [regionSize, if_true, hf, exponentSize_eq, append_toNat_eq_add]; rfl

theorem headerTrainer_eq (image : List Byte) :
    headerTrainer image = decide ((imageByte image 6).toNat / 4 % 2 = 1) := getLsbD_eq_decide _ 2

/-! ## A parsed image -/

/-- The PRG and CHR bytes lie after the header and the trainer (R138, R139). -/
theorem parseBody_prg (image : List Byte) :
    (parseBody image).prg = (image.drop (16 + trainerLength image)).take (headerPrgSize image) :=
  congrArg (List.take _) List.drop_drop

theorem parseBody_chr (image : List Byte) :
    (parseBody image).chr =
      (image.drop (16 + trainerLength image + headerPrgSize image)).take (headerChrSize image) := by
  rw [← List.drop_drop, ← List.drop_drop]; rfl

/-- Of an image of the declared length the CHR buffer is all that the header declares. -/
theorem length_parseBody_chr (h : image.length = declaredLength image) :
    (parseBody image).chr.length = headerChrSize image := by
  rw [declaredLength] at h
  have h16 : Config.headerSize = 16 := rfl
  rw [parseBody_chr, List.length_take, List.length_drop]
  omega

/-- Settles O54: a parsed image is `parseBody` of bytes of the declared length, field by field. -/
theorem headerFieldsAndLayout : Obligations.HeaderFieldsAndLayout := by
  rintro image rom b4 b5 b6 b7 b8 b9 t P C x hok rfl rfl rfl rfl rfl rfl hx ht hP hC
  obtain ⟨-, -, -, hlen, rfl⟩ := parse_ok.1 hok
  rw [← isExtended_eq] at hx
  subst hx
  have htl : trainerLength image = t := by
    rw [ht, trainerLength, headerTrainer_eq]; simp [Config.trainerSize]
  have hPl : headerPrgSize image = P := by
    rw [hP, headerPrgSize, regionSize_eq, low_nibble_toNat]
  have hCl : headerChrSize image = C := by
    rw [hC, headerChrSize, regionSize_eq, high_nibble_toNat]
  refine ⟨headerMapper_toNat image, headerSubmapper_toNat image, getLsbD_eq_decide _ 1, ?_, ?_, ?_, ?_⟩
  · rw [hlen, declaredLength, htl, hPl, hCl]; rfl
  · rw [ht, parseBody, headerTrainer_eq]
    split <;> simp_all [Config.headerSize, Config.trainerSize]
  · rw [parseBody_prg, htl, hPl]
  · rw [parseBody_chr, htl, hPl, hCl]

/-- Byte 7 says one of the two formats exactly when its bit 2 is 0 (R132). -/
theorem formatBits_known_iff (image : List Byte) :
    (formatBits image = 0 ∨ formatBits image = 2) ↔ (imageByte image 7).toNat / 4 % 2 = 0 := by
  have h0 : formatBits image = 0 ↔ (formatBits image).toNat = 0 := (BitVec.toNat_inj (y := 0)).symm
  have h2 : formatBits image = 2 ↔ (formatBits image).toNat = 2 := (BitVec.toNat_inj (y := 2)).symm
  rw [h0, h2, formatBits_toNat]
  omega

/-- Settles O53: both clauses are `parse_ok` with the header's own functions; the CHR buffer is as long as the header
says, so it is empty exactly when that is 0. -/
theorem headerMirroringAndChrRam : Obligations.HeaderMirroringAndChrRam := by
  refine ⟨fun image rom hok => ?_, fun image hmagic hlen hbit _ hdecl => ?_⟩
  · obtain ⟨-, -, -, hlen, rfl⟩ := parse_ok.1 hok
    have hchr := length_parseBody_chr hlen
    refine ⟨rfl, rfl, fun h0 => ?_, fun hne => ?_⟩
    · have hnil : (parseBody image).chr = [] := List.eq_nil_of_length_eq_zero (hchr.trans h0)
      refine ⟨hnil, fun p ri ci s hs => ?_⟩
      obtain ⟨v, -, -, rfl⟩ := create_block.1 hs
      exact ⟨by simp [hnil], (RomImage.cfg_chrLen _).trans (if_pos hnil)⟩
    · have hcons : (parseBody image).chr ≠ [] := fun hnil => hne (by rw [← hchr, hnil]; rfl)
      exact ⟨by simpa using hcons, (RomImage.cfg_chrLen _).trans ((if_neg hcons).trans hchr)⟩
  · exact ⟨_, parse_ok.2 ⟨hmagic, hlen, (formatBits_known_iff image).2 hbit, hdecl, rfl⟩⟩

/-! ## The checks in their order -/

/-- The first check fails exactly as R131 says. -/
theorem parse_invalidMagic :
    (image.length < 4 ∨ image.take 4 ≠ magic) ↔ parse image = .error .invalidMagic := by
  unfold parse
  split
  · simp_all
  · rename_i h
    refine iff_of_false h ?_
    split
    · simp
    · split
      · simp
      · split <;> simp

/-- Past the first check, what the length and byte 7 decide. -/
theorem parse_of_magic (h : image.take 4 = magic) :
    parse image =
      if image.length < 16 then .error .sizeMismatch
      else if (imageByte image 7).toNat / 4 % 2 = 1 then .error .unsupportedFormat
      else if image.length ≠ declaredLength image then .error .sizeMismatch
      else .ok (parseBody image) := by
  have h4 : ¬ (image.length < 4 ∨ image.take 4 ≠ magic) := by
    have hl := congrArg List.length h
    rw [List.length_take] at hl
    have : magic.length = 4 := rfl
    exact not_or.2 ⟨by omega, not_not.2 h⟩
  have hf : (formatBits image ≠ 0 ∧ formatBits image ≠ 2) ↔ (imageByte image 7).toNat / 4 % 2 = 1 := by
    rw [← not_or, formatBits_known_iff]
    omega
  rw [parse, if_neg h4]
  simp only [hf]
  rfl

theorem parse_ne_io : parse image ≠ .error .io := by
  by_cases h : image.length < 4 ∨ image.take 4 ≠ magic
  · rw [parse_invalidMagic.1 h]; simp
  · rw [parse_of_magic (not_not.1 (not_or.1 h).2)]
    split
    · simp
    · split
      · simp
      · split <;> simp

/-- Settles O52: the first check by itself, the others from the form of `parse` past it. -/
theorem parseChecksInOrder : Obligations.ParseChecksInOrder := by
  intro image
  refine ⟨parse_invalidMagic, fun hm hl => ?_, fun hm hl => ?_, fun hm hl hb => ?_, parse_ne_io⟩
  · rw [parse_of_magic hm, if_pos hl]
  · rw [parse_of_magic hm, if_neg (Nat.not_lt.2 hl)]
    split
    · simp_all
    · split <;> simp_all
  · rw [parse_of_magic hm, if_neg (Nat.not_lt.2 hl), if_neg (by omega)]
    split <;> simp_all

end Sys2Proof.Machine
end

section
/-! SUPPORT. When the factory builds a block, and what the new block holds. Then their statements (R24, R25, R48,
R150-R152, R281). -/

namespace Sys2Proof.Machine

variable {p : Params} {ri ci : List Byte} {rom : RomImage} {v : Variant} {s t : State} {a : Addr}

/-! ## The configuration check decides -/

/-- For a mapper number with a variant the check alone decides. -/
theorem create_block_iff (hv : variantOf rom.mapper = some v) :
    (∃ s, create p ri ci rom = .block s) ↔ configOk v rom.cfg = true := by
  constructor
  · rintro ⟨s, hs⟩
    obtain ⟨u, hu, hc, -⟩ := create_block.1 hs
    rw [hv] at hu
    cases hu
    exact hc
  · exact fun hc => ⟨_, create_block.2 ⟨v, hv, hc, rfl⟩⟩

/-- A block that is not built is refused, if its mapper number has a variant. -/
theorem create_refused (hv : variantOf rom.mapper = some v) (h : ∀ s, create p ri ci rom ≠ .block s) :
    create p ri ci rom = .refused := by
  have hc : ¬ configOk v rom.cfg = true := fun hc => h _ (create_block.2 ⟨v, hv, hc, rfl⟩)
  simp [create, hv, hc]

theorem positiveMultiple_iff {m n : Nat} : positiveMultiple m n = true ↔ 0 < n ∧ n % m = 0 := by
  simp [positiveMultiple]

/-- The sizes each variant takes, in arithmetic (R152). -/
def SizesFit (v : Variant) (P C : Nat) : Prop :=
  match v with
  | .nrom => (P = 16384 ∨ P = 32768) ∧ C = 8192
  | .mmc1 => 0 < P ∧ P % 16384 = 0 ∧ 0 < C ∧ C % 8192 = 0
  | .uxrom => 0 < P ∧ P % 16384 = 0 ∧ C = 8192
  | .cnrom => (P = 16384 ∨ P = 32768) ∧ 0 < C ∧ C % 8192 = 0
  | .mmc3 => 0 < P ∧ P % 8192 = 0 ∧ 0 < C ∧ C % 1024 = 0

theorem configOk_iff (v : Variant) (c : Cfg) : configOk v c = true ↔ SizesFit v c.prgLen c.chrLen := by
  cases v <;> simp [configOk, SizesFit, positiveMultiple_iff, and_assoc]

/-- Settles O56: the mapper number names the variant, and the variant's check decides. -/
theorem configurationCheckDecidesConstruction : Obligations.ConfigurationCheckDecidesConstruction := by
  intro p ri ci rom P C hP hC
  obtain rfl : P = rom.cfg.prgLen := hP
  obtain rfl : C = rom.cfg.chrLen := hC.trans (RomImage.cfg_chrLen rom).symm
  have decides : ∀ v, variantOf rom.mapper = some v →
      ((∃ s, create p ri ci rom = .block s) ↔ SizesFit v rom.cfg.prgLen rom.cfg.chrLen) :=
    fun v hv => (create_block_iff hv).trans (configOk_iff v rom.cfg)
  refine ⟨fun h => decides .nrom ?_, fun h => decides .mmc1 ?_, fun h => decides .uxrom ?_,
    fun h => decides .cnrom ?_, fun h => decides .mmc3 ?_, fun hlt hno => ?_⟩
  case refine_6 =>
    cases hv : variantOf rom.mapper with
    | none => exact absurd (variantOf_eq_none.1 hv) (by omega)
    | some v => exact create_refused hv hno
  all_goals exact variantOf_eq_some.2 (by simp [h])

/-! ## The values after construction -/

theorem regsReset_eq_mmc1 {m : Mirroring} {r : Mmc1} (h : regsReset m v = .mmc1 r) : r = mmc1Reset := by
  cases v <;> cases h; rfl

theorem regsReset_eq_uxrom {m : Mirroring} {r : Uxrom} (h : regsReset m v = .uxrom r) : r = uxromReset := by
  cases v <;> cases h; rfl

theorem regsReset_eq_cnrom {m : Mirroring} {r : Cnrom} (h : regsReset m v = .cnrom r) : r = cnromReset := by
  cases v <;> cases h; rfl

theorem regsReset_eq_mmc3 {m : Mirroring} {r : Mmc3} (h : regsReset m v = .mmc3 r) : r = mmc3Reset m := by
  cases v <;> cases h; rfl

/-- Settles O57: a new block is `construct` of the image, whose arrays are made from byte lists and whose registers
are the variant's reset values. -/
theorem valuesAfterConstruction : Obligations.ValuesAfterConstruction := by
  intro p ri ci rom s h hri hci
  obtain ⟨v, -, -, rfl⟩ := create_block.1 h
  have htake : ∀ l : List Byte, l.length = 8192 → l.take 8192 = l := fun l hl => List.take_of_length_le hl.le
  refine ⟨rfl, rfl, fun o _ => Memory.read_ofBytes _ o, fun hne o _ => ?_, fun hnil o _ => ?_, fun hp o _ => ?_,
    fun r => regsReset_eq_mmc1, fun r => regsReset_eq_uxrom, fun r => regsReset_eq_cnrom, fun r hr => ?_⟩
  · rw [construct_chr_rom _ _ _ _ _ _ _ (by simpa using hne)]
    exact Memory.read_ofBytes _ o
  · rw [construct_chr_ram _ _ _ _ _ _ _ (by simp [hnil]), Config.chrRamSize, htake ci hci]
    exact Memory.read_ofBytes _ o
  · rw [construct_variant] at hp
    rw [construct_prgRam _ _ _ _ _ _ _ hp, Config.prgRamSize, htake ri hri]
    exact Memory.read_ofBytes _ o
  · rw [regsReset_eq_mmc3 hr]
    exact ⟨rfl, rfl, rfl, fun k hk => Vector.getElem_replicate hk, beq_iff_eq, rfl, rfl, rfl, rfl, rfl, rfl, rfl,
      rfl⟩

/-! ## The top of the PRG-ROM window -/

/-- Both image sizes of a fixed window end at the window's end. -/
theorem fixedPrgOffset_top {c : Cfg} (hlen : c.prgLen = 16384 ∨ c.prgLen = 32768) (ha : 0xE000 ≤ a.toNat) :
    c.fixedPrgOffset a = c.prgLen - 8192 + a.toNat % 8192 := by
  have hlt := a.isLt
  rw [Cfg.fixedPrgOffset, slotOffset]
  rcases hlen with h | h <;> rw [h] <;> omega

/-- With the registers of a new block the top 8KB of the window lie in the last 8KB of PRG-ROM, in every variant. -/
theorem exec_romRead_top {m : Mirroring} (hr : s.regs = regsReset m v) (hc : configOk v s.cfg = true)
    (ha : 0xE000 ≤ a.toNat) :
    exec (decodeRomRead v a) s = s.readPrgRom (s.cfg.prgLen - 8192 + a.toNat % 8192) := by
  have hlt := a.isLt
  have h16 : a.toNat / 16384 % 2 = 1 := by omega
  have h8 : a.toNat / 8192 % 4 = 3 := by omega
  cases v with
  | nrom => exact (exec_nromPrgRomRead hr a).trans (congrArg _ (fixedPrgOffset_top (configOk_nrom hc).1 ha))
  | mmc1 =>
    have hlen := (configOk_mmc1 hc).1
    refine (exec_mmc1PrgRomRead hr a).trans (congrArg _ ?_)
    rw [Mmc1.prgOffset, prgSlot16, h16, Mmc1.prgBank_fixLast _ _ _ rfl, if_neg one_ne_zero, translate, slotOffset]
    omega
  | uxrom =>
    have hlen := (configOk_uxrom hc).1
    refine (exec_uxromPrgRomRead hr a).trans (congrArg _ ?_)
    rw [Uxrom.prgOffset, prgSlot16, h16, if_neg one_ne_zero, translate, slotOffset]
    omega
  | cnrom => exact (exec_cnromPrgRomRead hr a).trans (congrArg _ (fixedPrgOffset_top (configOk_cnrom hc).1 ha))
  | mmc3 =>
    have hlen := (configOk_mmc3 hc).1
    refine (exec_mmc3PrgRomRead hr a).trans (congrArg _ ?_)
    rw [Mmc3.prgOffset, prgSlot8, h8, Mmc3.prgBank_slot3, translate, slotOffset]
    omega

/-- A read of $8000-$FFFF at the head of the queue runs the variant's own PRG-ROM read. -/
theorem step_asmRd_rom (h : 0x8000 ≤ a.toNat) (s : State) (ws : List TWord) :
    step { s with inputs := asmRd a :: ws } = exec (decodeRomRead s.variant a) (s.take ws) := by
  rw [step_cons (s := { s with inputs := asmRd a :: ws }) rfl]
  exact congrArg (fun i => exec i (s.take ws)) (decode_asmRd_rom h)

/-- Settles O58: the word of the read is decoded to the variant's PRG-ROM read, whose offset at the top of the window
is that of the last 8KB. -/
theorem topOfWindowShowsTheLastBank : Obligations.TopOfWindowShowsTheLastBank := by
  intro p ri ci rom s a h ha
  obtain ⟨v, -, hc, rfl⟩ := create_block.1 h
  have hlen : 8192 ≤ rom.prg.length := configOk_prgLen hc
  have ho : rom.prg.length - 8192 + a.toNat % 8192 < rom.prg.length := by omega
  rw [step_asmRd_rom (by omega), construct_variant, exec_romRead_top (v := v) rfl hc ha]
  exact ⟨_, State.readPrgRom_of_lt ho, congrArg Reply.byte (Memory.read_ofBytes rom.prg _)⟩

end Sys2Proof.Machine
end

section
/-! SUPPORT. The battery view: bytes put into an array and taken out again, and the started mark. Then its statement
(R78). -/

namespace Sys2Proof.Machine

variable {i : Instr} {s t : State}

/-- The bytes of the array that a list makes are the list. -/
theorem Memory.toBytes_ofBytes {l : List Byte} {n : Nat} (h : l.length = n) :
    Memory.toBytes (Memory.ofBytes l) n = l := by
  subst h
  refine List.ext_getElem? fun o => ?_
  rcases Nat.lt_or_ge o l.length with ho | ho
  · rw [Memory.getElem_toBytes _ ho, Memory.read_ofBytes, List.getD_eq_getElem?_getD, List.getElem?_eq_getElem ho]
    rfl
  · rw [List.getElem?_eq_none ho, List.getElem?_eq_none (by rwa [Memory.length_toBytes])]

theorem Effect.started_eq (h : Effect i s t) : t.started = s.started := by
  cases h <;> rfl

/-- Taking a transaction sets the started mark, and no transaction clears it. -/
theorem step_started {w : TWord} {ws : List TWord} (hin : s.inputs = w :: ws) (h : step s = .next t) :
    t.started = true := by
  rw [step_cons hin] at h
  exact (exec_effect h).started_eq

theorem State.sram_isSome_iff : s.sram.isSome = true ↔ s.hasSram = true := by
  cases h : s.hasSram with
  | true => simp [State.sram_of h]
  | false => simp [State.sram_none h]

theorem State.sram_eq_some {l : List Byte} (h : s.sram = some l) :
    l = Memory.toBytes s.prgRam Config.prgRamSize := by
  have hs : s.hasSram = true := State.sram_isSome_iff.1 (by rw [h]; rfl)
  rw [State.sram_of hs] at h
  exact (Option.some.inj h).symm

/-- Settles O59: the view is the bytes of PRG-RAM; loading asks for the view, 8192 bytes and a block not yet started,
and puts exactly those bytes there; a step sets the started mark. -/
theorem batteryRamView : Obligations.BatteryRamView := by
  intro s bytes
  refine ⟨State.sram_isSome_iff.trans State.hasSram_iff, fun l hl => ?_, ?_, fun t ht => ?_,
    fun t w ws hin h => ⟨step_started hin h, ?_⟩⟩
  · rw [State.sram_eq_some hl]
    refine ⟨Memory.length_toBytes _ _, fun o ho => ?_⟩
    rw [List.getD_eq_getElem?_getD, Memory.getElem_toBytes _ (n := Config.prgRamSize) ho]
    rfl
  · rw [Option.isSome_iff_exists, State.sram_isSome_iff]
    constructor
    · rintro ⟨t, ht⟩
      obtain ⟨hs, hst, hl, -⟩ := State.loadSram_eq_some.1 ht
      exact ⟨hs, hst, hl⟩
    · rintro ⟨hs, hst, hl⟩
      exact ⟨_, State.loadSram_eq_some.2 ⟨hs, hst, hl, rfl⟩⟩
  · obtain ⟨hs, -, hl, rfl⟩ := State.loadSram_eq_some.1 ht
    refine ⟨rfl, (State.sram_of (s := s.setPrgRam (Memory.ofBytes bytes)) hs).trans ?_⟩
    exact congrArg some (Memory.toBytes_ofBytes hl)
  · cases hload : t.loadSram bytes with
    | none => rfl
    | some u =>
      obtain ⟨-, hst, -⟩ := State.loadSram_eq_some.1 hload
      rw [step_started hin h] at hst
      cases hst

end Sys2Proof.Machine
end
